-- ==== Sys2Proof/Word.lean ====
section
/-! DEFINITION. The word types of the LDC: every data value is "an 8-bit unsigned value" (R9, R142); the two other
widths the spec gives are the 7-bit device address (R31) and the 16-bit timer (R35, R36). -/

namespace Sys2Proof

/-- A byte or register value; bit 0 is the least significant bit (R9). -/
abbrev Byte := BitVec 8

/-- The 7-bit device address of the peripheral (R31). -/
abbrev DevAddr := BitVec 7

/-- The value of a timer, `TIMER_W` = 16 bits, unsigned (R7, R35, R36). -/
abbrev Ticks := BitVec 16

end Sys2Proof
end

