-- ==== Sys2Proof/Syntax.lean ====
section
/-! DEFINITION. The instructions: one constructor per row of spec/opcode_table.json. Nine are commands of the host
(format CMD8, R111, R112), three are requests of the LDC to the bus transport (formats BUSREQ24 and OPENREQ8, R75, R76).

Fields the decoder ignores (R117) are kept as operands named `x`: acceptance writes the WHOLE word to CMDR (R110) and
an invalid-identifier error records the whole word in ERR_INFO (R258). DEDUCED, safe: log 18. -/

namespace Sys2Proof

/-- The rows of spec/opcode_table.json. In every command `p` is the 4-bit pin operand (R114), `on` the state operand,
true for `s` = 1 = ON (R113), and `x` the ignored bits. -/
inductive Instr where
  /-- INIT, `000xxxxx` (R150). -/
  | init (x : BitVec 5)
  /-- SETLED, `001spppp` (R180). -/
  | setled (on : Bool) (p : BitVec 4)
  /-- SETLEDS, `010sxxxx` (R181). -/
  | setleds (on : Bool) (x : BitVec 4)
  /-- GETLED, `011xpppp` (R182). -/
  | getled (x : Bool) (p : BitVec 4)
  /-- POLLBTN, `100xxxxx` (R200). -/
  | pollbtn (x : BitVec 5)
  /-- CLRINT, `101xxxxx` (R201). -/
  | clrint (x : BitVec 5)
  /-- BTNSTATE, `110xpppp` (R202). -/
  | btnstate (x : Bool) (p : BitVec 4)
  /-- MON with `s` = 1 (MON START), `1111xxxx` (R220). -/
  | monstart (x : BitVec 4)
  /-- MON with `s` = 0 (MON STOP), `1110xxxx` (R220). -/
  | monstop (x : BitVec 4)
  /-- BUS.RD, a read-byte request, `1dddddddrrrrrrrrxxxxxxxx` (R76). -/
  | busRd (dev : DevAddr) (reg : Byte) (x : Byte)
  /-- BUS.WR, a write-byte request, `0dddddddrrrrrrrrvvvvvvvv` (R76). -/
  | busWr (dev : DevAddr) (reg : Byte) (v : Byte)
  /-- BUS.OPEN, the open request with its bus number, `bbbbbbbb` (R75). -/
  | busOpen (bus : Byte)
deriving DecidableEq, Repr

end Sys2Proof
end

