-- ==== Sys2Proof/Decode.lean ====
section
/-! DEFINITION. The decoder and the encoder, from 30_encoding.md R111, R112, R117, R119 (commands) and 20_memory.md
R75, R76 (transport requests), and the interface function `decodeTableWord`.

A word is read at one of three ports, and the port fixes the format: the 8-bit command port, the 24-bit bus request
port, the 8-bit open request port (R8, R110, R123). CMD8 and OPENREQ8 are both 8 bits wide and every 8-bit word is a
legal word of each, so no decoder can tell them apart by the word; DESIGN CHOICE, safe: log 15. -/

namespace Sys2Proof

/-- The word formats of spec/opcode_table.json. -/
inductive Format where
  | cmd8      -- a host command word (R111)
  | busReq24  -- the canonical packing of a read-byte or write-byte request (R76)
  | openReq8  -- the open request, carrying the bus number (R75)
deriving DecidableEq, Repr

/-- How many bytes a word of a format has (R110, R76, R75). -/
def Format.bytes : Format → Nat
  | .cmd8 => 1
  | .busReq24 => 3
  | .openReq8 => 1

/-- Why a string of bytes is no word of a format: there are no variable-length forms (R110, R120). -/
inductive DecodeError where
  | wrongLength (fmt : Format) (bytes : Nat)
deriving DecidableEq, Repr

/-- The field `op` of a command word, bits 7:5 (R111). -/
def opField (w : Byte) : BitVec 3 := w.extractLsb' 5 3

/-- The field `s` of a command word, bit 4 (R111). -/
def stateField (w : Byte) : Bool := w.getLsbD 4

/-- The field `p` of a command word, bits 3:0 (R111). -/
def pinField (w : Byte) : BitVec 4 := w.extractLsb' 0 4

/-- Bits 4:0 of a command word, ignored by INIT, POLLBTN and CLRINT (R117). -/
def lowField (w : Byte) : BitVec 5 := w.extractLsb' 0 5

/-- Decode a command word. Total: all eight values of `op` are assigned (R112, R119), and illegal pin operands are
errors of the command's acceptance, not of its decoding (R118). -/
def decodeCommand (w : Byte) : Instr :=
  match (opField w).toNat with
  | 0 => .init (lowField w)
  | 1 => .setled (stateField w) (pinField w)
  | 2 => .setleds (stateField w) (pinField w)
  | 3 => .getled (stateField w) (pinField w)
  | 4 => .pollbtn (lowField w)
  | 5 => .clrint (lowField w)
  | 6 => .btnstate (stateField w) (pinField w)
  | _ => bif stateField w then .monstart (pinField w) else .monstop (pinField w)

/-- Decode a packed transport request from its three bytes: bit 23 = rnw and bits 22:16 = dev are the high byte, bits
15:8 = reg the middle one, bits 7:0 = wdata the low one (R76). -/
def decodeRequest (hi mid lo : Byte) : Instr :=
  bif hi.getLsbD 7 then .busRd (hi.extractLsb' 0 7) mid lo else .busWr (hi.extractLsb' 0 7) mid lo

/-- Decode the bytes of a word at the port of a format, least significant byte first (log 15). Total on any bytes;
rejects by name a string of another length than the format's. -/
def decode (fmt : Format) (bytes : List Byte) : Except DecodeError Instr :=
  match fmt, bytes with
  | .cmd8, [w] => .ok (decodeCommand w)
  | .busReq24, [lo, mid, hi] => .ok (decodeRequest hi mid lo)
  | .openReq8, [n] => .ok (.busOpen n)
  | fmt, bytes => .error (.wrongLength fmt bytes.length)

/-- The word `op ‖ x` of a command whose low five bits are ignored (R111, R117). -/
def wordOpX (op : BitVec 3) (x : BitVec 5) : Byte := op ++ x

/-- The word `op ‖ s ‖ p` of a command (R111). -/
def wordOpSP (op : BitVec 3) (s : Bool) (p : BitVec 4) : Byte := op ++ (BitVec.ofBool s ++ p)

/-- The format of an instruction's word (column "format" of the opcode table). -/
def Instr.format : Instr → Format
  | .init _ => .cmd8
  | .setled _ _ => .cmd8
  | .setleds _ _ => .cmd8
  | .getled _ _ => .cmd8
  | .pollbtn _ => .cmd8
  | .clrint _ => .cmd8
  | .btnstate _ _ => .cmd8
  | .monstart _ => .cmd8
  | .monstop _ => .cmd8
  | .busRd _ _ _ => .busReq24
  | .busWr _ _ _ => .busReq24
  | .busOpen _ => .openReq8

/-- The bytes of an instruction's word, least significant first: the opcode map of R112, the request packing of R76
(high byte `rnw ‖ dev`, then `reg`, then `wdata`) and the open request of R75. -/
def encode : Instr → List Byte
  | .init x => [wordOpX 0b000#3 x]
  | .setled on p => [wordOpSP 0b001#3 on p]
  | .setleds on x => [wordOpSP 0b010#3 on x]
  | .getled x p => [wordOpSP 0b011#3 x p]
  | .pollbtn x => [wordOpX 0b100#3 x]
  | .clrint x => [wordOpX 0b101#3 x]
  | .btnstate x p => [wordOpSP 0b110#3 x p]
  | .monstart x => [wordOpSP 0b111#3 true x]
  | .monstop x => [wordOpSP 0b111#3 false x]
  | .busRd dev reg x => [x, reg, 1#1 ++ dev]
  | .busWr dev reg v => [v, reg, 0#1 ++ dev]
  | .busOpen n => [n]

/-- The 8-bit word of a command, which acceptance writes to CMDR (R110): the one byte of its encoding. No step asks
for the word of a transport request. -/
def commandWord (i : Instr) : Byte := (encode i).headD 0#8

/-- The host's question: the instruction read from a table word of `nbits` bits. Eight bits are read at the command
port (CMD8), 24 bits at the request port (BUSREQ24), laid out least significant byte first; no row of the table has
another width. A word of OPENREQ8 cannot be asked for here (log 15). -/
def decodeTableWord (nbits w : Nat) : Option Instr :=
  if nbits = 8 then (decode .cmd8 [BitVec.ofNat 8 w]).toOption
  else if nbits = 24 then
    (decode .busReq24 [BitVec.ofNat 8 w, BitVec.ofNat 8 (w / 2 ^ 8), BitVec.ofNat 8 (w / 2 ^ 16)]).toOption
  else none

end Sys2Proof
end

