-- ==== Sys2Proof/Machine/Env.lean ====
section
/-! DEFINITION. What the outside of the LDC may do in one step (R6, R272, R314): the answers of the transport, the
granted agent, and the moves of host, scheduler, event consumer and environment. -/

namespace Sys2Proof.Machine

/-- The two button pins (R47). -/
inductive Button where
  | sw1  -- pin 6
  | sw2  -- pin 7
deriving DecidableEq, Repr

/-- The agents that take steps inside the LDC (R272). -/
inductive Agent where
  | sequencer
  | monitor
deriving DecidableEq, Repr

/-- The transport's answer to one call (R77). -/
inductive Answer where
  /-- Answered `ok`; to a read, with any byte `v` (no peripheral property assumed, U5). A write or an open ignores `v`. -/
  | ok (v : Byte)
  /-- Answered `err` (R78). -/
  | err
  /-- Answered `ok` by the reference peripheral model, a read with the byte that R94, R95 give. -/
  | reference
deriving DecidableEq, Repr

/-- One move (R6): which party acts next and with what. Every list of moves is a legal schedule (R102, R314). -/
inductive Move where
  /-- The host offers a command word (R110). -/
  | offer (w : Byte)
  /-- The scheduler grants the sequencer a step; `a` is the transport's answer if that step calls it. -/
  | seq (a : Answer)
  /-- The scheduler grants the monitor a step; `a` is the transport's answer if that step calls it. -/
  | mon (a : Answer)
  /-- One tick of the external 1 ms time base (R232, R270). -/
  | tick
  /-- The event consumer becomes ready, or stops being ready (R228, U27). -/
  | consumer (ready : Bool)
  /-- A button is pressed (R96). -/
  | press (b : Button)
  /-- A button is released (R97). -/
  | release (b : Button)
  /-- Flags appear in INTF (R91, R98). -/
  | setFlag (m : Byte)
  /-- Reset of the LDC (R290). -/
  | reset
deriving DecidableEq, Repr, Inhabited

end Sys2Proof.Machine
end

