-- ==== Sys2Proof/Machine/Operands.lean ====
section
/-! DEFINITION. Operands: the pin operand, its classes and masks (R114 to R116), and the pins of the two buttons (R47).
The state operand is the Boolean of the instruction, true for ON (R113). -/

namespace Sys2Proof.Machine

/-- `isLed(p)` = (p <= 5) (R115). -/
def isLed (p : BitVec 4) : Bool := p.toNat ≤ 5

/-- `isSw(p)` = (p = 6 or p = 7) (R115). -/
def isSw (p : BitVec 4) : Bool := p.toNat == 6 || p.toNat == 7

/-- The bit mask of a valid pin, `1 << p` (R116). -/
def pinMask (p : BitVec 4) : Byte := 1#8 <<< p.toNat

/-- The group mask LEDS (R116). -/
def ledsMask : Byte := 0x3F#8

/-- The group mask BTNS (R116). -/
def btnsMask : Byte := 0xC0#8

/-- The bit position of a button's pin (R47). -/
def Button.pin : Button → Nat
  | .sw1 => 6
  | .sw2 => 7

end Sys2Proof.Machine
end

