-- ==== Sys2Proof/Config.lean ====
section
/-! DEFINITION. The parameters of the LDC (R7, R49) and the free values. A constant with a body has the value the spec
gives it; an `opaque` constant has no body, so no proof can see its value: an open parameter of R7, or a value the
spec leaves open (93_implementation_defined.md), applied to an address or to the counter `draws` of State. -/

namespace Sys2Proof.Config

/-- `BUS_NUM`, OPEN, 8 bits (R7; 92 D11; log 17). -/
opaque busNum : Byte

/-- `DEV_ADDR`, OPEN, 7 bits (R7; 92 D11; log 17). -/
opaque devAddr : DevAddr

/-- `FLASH_HOLD_MS`, OPEN, 0 .. 65535 (R7; 92 D19; log 17). -/
opaque flashHoldMs : Ticks

/-- `DEBOUNCE_MS`, "reference implementation: 500 ms" (R7, R224). -/
def debounceMs : Ticks := 500#16

/-- `ALL_OFF`, the byte written to OLAT for all LEDs off (R7, R156). -/
def allOff : Byte := 0x3F#8

/-- `ALL_ON`, the byte written to OLAT for all LEDs on (R7, R161). -/
def allOn : Byte := 0x00#8

/-- `CFG_BTN`, the byte written to GPPU, IODIR, GPINTEN, DEFVAL, INTCON (R7, R154 to R159). -/
def cfgBtn : Byte := 0xC0#8

/-- What the expander register at an address holds while nothing has written it: "a model treats each as any byte"
(R51, U3). Free value, safe: log 2. -/
opaque powerOn : Nat → Byte

/-- What a register holds after a write to it was answered `err` (R263, U7). Free value, safe: log 10. -/
opaque failedWrite : Nat → Byte

/-- The level of a released button pin while nothing pulls it up (U12). Free value, safe: log 12. -/
opaque floatingLevel : Nat → Bool

/-- The next move when the list of moves is empty (R102, R314, U14). Free value, safe: log 4. -/
opaque freeMove : Nat → Machine.Move

end Sys2Proof.Config
end

