-- ==== Sys2Proof/Machine/State.lean ====
section
/-! DEFINITION. The state of the LDC and of what it talks to, the reasons a step can stop, and the state after reset.
Codes that the spec says are never taken (R23, R27, R29, R26, R251; U21) are in none of the types (log 7). -/

namespace Sys2Proof.Machine

/-- SEQ, the state of the command sequencer, the program-counter analogue (R23). -/
inductive Seq where
  | sReset | sOpen | sProbe | sPullup | sDir | sLedsOff | sInten | sDefval | sIntcon | sIntclr
  | sFlashOn | sHoldOn | sFlashOff | sHoldOff | sReady | sExec1 | sExec2 | sHalt
deriving DecidableEq, Repr

/-- MON, the state of the monitor FSM (R27). -/
inductive Mon where
  | mOff | mIdle | mDebounce | mClear | mDispatch
deriving DecidableEq, Repr

/-- LOCK, the owner of the bus lock (R29). -/
inductive Lock where
  | free | host | mon
deriving DecidableEq, Repr

/-- A button event, "one of {SW1, SW2, none}" (R26, R122). -/
inductive Event where
  | none | sw1 | sw2
deriving DecidableEq, Repr

/-- ERR, the cause of the fatal error (R33, R251). -/
inductive ErrCode where
  | none | busOpenError | deviceNotFoundError | invalidPinError | invalidButtonError | transportError
deriving DecidableEq, Repr

/-- One transport call with its answer, an entry of the trace (R37, R75, R76). -/
inductive Call where
  /-- `OPEN(bus) -> ok` (true) or `err` (false). -/
  | openBus (bus : Byte) (ok : Bool)
  /-- `RD(reg) -> v`, or `err` where there is no byte. -/
  | rd (reg : Byte) (v : Option Byte)
  /-- `WR(reg, v) -> ok` (true) or `err` (false). -/
  | wr (reg v : Byte) (ok : Bool)
deriving DecidableEq, Repr

/-- Why the machine stops with a fault: for no reason. Every error of the LDC is a state, S_HALT, entered by a next state
(R262, R266), and what the spec gives no meaning is refused (93 U8, U9). Safe (log 9). -/
inductive Fault where
deriving DecidableEq, Repr

/-- Why an instruction is refused. -/
inductive Refusal where
  /-- Raised by an arm of exec for an instruction that has no meaning yet; no arm does so. Safe. -/
  | notModelled (mnemonic : String)
  /-- Raised by BUS.RD and BUS.WR for an address at which the map has no register (0x01, 0x05, 0x08, 0x0B to 0xFF):
  "never accessed; a model has no such registers" (R81, R93, R95, U8 `refuse`). Safe (log 9). -/
  | noSuchRegister (reg : Byte)
  /-- Raised by BUS.RD of a register the LDC only writes: the spec gives such a read no meaning (R95, U9). Safe (log 9). -/
  | readNotSpecified (reg : Byte)
  /-- Raised by BUS.WR of INTF or GPIO: the spec gives such a write no meaning (R93, U9). Safe (log 9). -/
  | writeNotSpecified (reg : Byte)
  /-- Raised by BUS.RD and BUS.WR to a device address other than CFG_DEV: another peripheral, which the spec does not
  describe (R70, 91_not_in_source.md N28). Safe (log 9). -/
  | otherDevice (dev : DevAddr)
deriving DecidableEq, Repr

/-- The whole state. Field by field with its rule; the reset values are in `State.reset`. -/
structure State where
  /-- SEQ (R23). -/
  seq : Seq
  /-- MON (R27). -/
  mon : Mon
  /-- MON_EN (R28). -/
  monEn : Bool
  /-- LOCK (R29). -/
  lock : Lock
  /-- HANDLE_V (R30). -/
  handleV : Bool
  /-- HANDLE_BUS (R30). -/
  handleBus : Byte
  /-- CFG_BUS (R31). -/
  cfgBus : Byte
  /-- CFG_DEV (R31). -/
  cfgDev : DevAddr
  /-- CMDR, the command being executed (R21). -/
  cmdr : Byte
  /-- TMP, the byte of SETLED's read (R22). -/
  tmp : Byte
  /-- RSP, the last response (R25). -/
  rsp : Byte
  /-- EVT, the event latched by the monitor (R26). -/
  evt : Event
  /-- ERR (R33). -/
  err : ErrCode
  /-- ERR_INFO (R34). -/
  errInfo : Byte
  /-- DBT, the debounce timer (R35). -/
  dbt : Ticks
  /-- HT, the hold timer (R36). -/
  ht : Ticks
  /-- The trace of transport calls, oldest first (R37). -/
  trace : List Call
  /-- The responses, oldest first (R121). -/
  responses : List Byte
  /-- The delivered events, oldest first (R231). -/
  events : List Event
  /-- The expander's stored registers as cells (R38, R92). -/
  mem : List Host.Cell
  /-- PIN, the levels applied to the pins from outside (R92); of a pin that nothing drives, the level it has while it is
  not pulled up (U12). -/
  pin : Byte
  /-- MODEL's own: the pins that nothing drives from outside, so that a pull-up raises them (R86, R97; log 11). -/
  undriven : Byte
  /-- The consumer's readiness, an input (R228; port evt_ready, R8). -/
  evtReady : Bool
  /-- MODEL's own: the moves still to come (log 4). -/
  inputs : List Move
  /-- MODEL's own: the agent that issues the current transport call (log 5). -/
  turn : Agent
  /-- MODEL's own: the transport's answer to the current call (log 5). -/
  ans : Answer
  /-- MODEL's own: the byte of the last read answered ok (log 5). -/
  rdata : Byte
  /-- MODEL's own: the counter of free values drawn (log 5). -/
  draws : Nat
deriving DecidableEq, Repr

/-- The machine after reset: the table of R50; CFG_BUS and CFG_DEV, which the spec leaves unspecified, are 0 (DESIGN
CHOICE, unsafe: log 1); nothing is stored in the expander (log 2), both buttons are released (R99) and the other pin
levels are 0 (DESIGN CHOICE, unsafe: log 3), each pin driven (DESIGN CHOICE, unsafe: log 11); the model's own fields
have no move and no draw behind them (log 5). -/
def State.reset : State where
  seq := .sReset
  mon := .mOff
  monEn := false
  lock := .free
  handleV := false
  handleBus := 0x00#8
  cfgBus := 0x00#8
  cfgDev := 0x00#7
  cmdr := 0x00#8
  tmp := 0x00#8
  rsp := 0x00#8
  evt := .none
  err := .none
  errInfo := 0x00#8
  dbt := 0#16
  ht := 0#16
  trace := []
  responses := []
  events := []
  mem := []
  pin := 0xC0#8
  undriven := 0x00#8
  evtReady := false
  inputs := []
  turn := .sequencer
  ans := .reference
  rdata := 0x00#8
  draws := 0

/-- What a meaning or a step answers. -/
abbrev Result := Host.Outcome State Fault Refusal

end Sys2Proof.Machine
end

