-- ==== Sys2Proof/Machine/Ops.lean ====
section
/-! DEFINITION. The operations the steps share: the trace (R37), the response (R121), the event channel (R231),
fatal-error entry (R262), command acceptance by state (R127), the timers (R232, R162) and reset (R290).

There is no return from a fatal error: "S_HALT has no successor but reset" (R266). -/

namespace Sys2Proof.Machine

/-- Append a transport call with its answer to the trace (R37). -/
def State.log (c : Call) (s : State) : State := { s with trace := s.trace ++ [c] }

/-- `respond(v)`: emit the response byte, RSP <- v, SEQ <- S_READY (R121). -/
def State.respond (v : Byte) (s : State) : State :=
  { s with rsp := v, responses := s.responses ++ [v], seq := .sReady }

/-- `emit(e)`: deliver a button event (R231). -/
def State.emit (e : Event) (s : State) : State := { s with events := s.events ++ [e] }

/-- `raise E(info)`, fatal-error entry, the LDC's only trap: exactly the writes of R262; CMDR, TMP, RSP, EVT, CFG_BUS,
CFG_DEV, HANDLE_BUS keep their values and no transport call is issued. -/
def State.raise (e : ErrCode) (info : Byte) (s : State) : State :=
  { s with
    err := e, errInfo := info, seq := .sHalt, mon := .mOff, monEn := false, lock := .free, handleV := false,
    dbt := 0#16, ht := 0#16 }

/-- The error of a read-byte or write-byte call answered err: DeviceNotFoundError in the step S_PROBE, TransportError
in every other step of either agent (R78, R253, R256). -/
def State.callError (s : State) : ErrCode :=
  if s.turn = .sequencer ∧ s.seq = .sProbe then .deviceNotFoundError else .transportError

/-- A command other than INIT is accepted in S_READY and has no effect at all in any other state (R127); `run` is what
acceptance does after it has written the word to CMDR (R110). -/
def State.accept (word : Byte) (run : State → State) (s : State) : State :=
  if s.seq = .sReady then run { s with cmdr := word } else s

/-- One timer on a tick: decremented while it is non-zero, so it never wraps (R142, R232). -/
def tickDown (t : Ticks) : Ticks := if t = 0#16 then 0#16 else t - 1#16

/-- One tick: both timers count; in S_HALT timers do not run (R35, R36, R266). -/
def State.tick (s : State) : State :=
  if s.seq = .sHalt then s else { s with dbt := tickDown s.dbt, ht := tickDown s.ht }

/-- Reset of the LDC: every register as in `State.reset`, the trace, responses and events emptied (R290). The expander
is not reset (R51, R292), and what belongs to the outside goes on: pin levels, the consumer, the moves to come, the
counter of free values (log 6). -/
def State.ldcReset (s : State) : State :=
  { State.reset with
    mem := s.mem, pin := s.pin, undriven := s.undriven, evtReady := s.evtReady, inputs := s.inputs,
    draws := s.draws }

end Sys2Proof.Machine
end

