-- ==== Sys2Proof/Machine/Buttons.lean ====
section
/-! DEFINITION. The button commands (43_button.md). A meaning here is the command's acceptance step; its one transaction
is the sequencer's step S_EXEC1 (Machine/Sequencer.lean). -/

namespace Sys2Proof.Machine

/-- POLLBTN, acceptance; no operand, so no InvalidButtonError (R200). -/
def execPollbtn (x : BitVec 5) (s : State) : Result :=
  .next (s.accept (commandWord (.pollbtn x)) fun t => { t with seq := .sExec1 })

/-- CLRINT, acceptance (R201). -/
def execClrint (x : BitVec 5) (s : State) : Result :=
  .next (s.accept (commandWord (.clrint x)) fun t => { t with seq := .sExec1 })

/-- BTNSTATE, acceptance: a pin that is no button is InvalidButtonError with the command word, before any transport
call (R202, R255). -/
def execBtnstate (x : Bool) (p : BitVec 4) (s : State) : Result :=
  .next (s.accept (commandWord (.btnstate x p)) fun t =>
    bif isSw p then { t with seq := .sExec1 } else t.raise .invalidButtonError (commandWord (.btnstate x p)))

end Sys2Proof.Machine
end

