-- ==== Sys2Proof/Machine/Init.lean ====
section
/-! DEFINITION. INIT (41_init.md). Its meaning is the acceptance step (R151); the thirteen steps that follow, S_OPEN to
S_HOLD_OFF (R152 to R164), are steps of the sequencer (Machine/Sequencer.lean) and run transport requests. -/

namespace Sys2Proof.Machine

/-- INIT: accepted in S_RESET only; loads the peripheral address and starts the sequence (R150, R151, R167). In every
other state the offered word has no effect at all (R127). -/
def execInit (x : BitVec 5) (s : State) : Result :=
  .next (if s.seq = .sReset then
    { s with cmdr := commandWord (.init x), cfgBus := Config.busNum, cfgDev := Config.devAddr, seq := .sOpen }
  else s)

end Sys2Proof.Machine
end

