-- ==== Sys2Proof/Machine/Led.lean ====
section
/-! DEFINITION. The LED commands (42_led.md). A meaning here is the command's acceptance step; its transactions are the
sequencer's steps S_EXEC1 and S_EXEC2 (Machine/Sequencer.lean), each of which runs a transport request. -/

namespace Sys2Proof.Machine

/-- The validation common to SETLED and GETLED, done at acceptance, before the lock and before any transport call:
a pin that is no LED is InvalidPinError with the command word (R183, R254). -/
def State.checkLed (word : Byte) (p : BitVec 4) (s : State) : State :=
  bif isLed p then { s with seq := .sExec1 } else s.raise .invalidPinError word

/-- SETLED, acceptance (R180, R183). -/
def execSetled (on : Bool) (p : BitVec 4) (s : State) : Result :=
  .next (s.accept (commandWord (.setled on p)) (State.checkLed (commandWord (.setled on p)) p))

/-- SETLEDS, acceptance; there is no pin to validate (R181). -/
def execSetleds (on : Bool) (x : BitVec 4) (s : State) : Result :=
  .next (s.accept (commandWord (.setleds on x)) fun t => { t with seq := .sExec1 })

/-- GETLED, acceptance (R182, R183). -/
def execGetled (x : Bool) (p : BitVec 4) (s : State) : Result :=
  .next (s.accept (commandWord (.getled x p)) (State.checkLed (commandWord (.getled x p)) p))

end Sys2Proof.Machine
end

