-- ==== Sys2Proof/Machine/Monitor.lean ====
section
/-! DEFINITION. The command MON (R220). It completes in its acceptance step, issues no transport call and cannot fail;
the monitor's own steps are in Machine/MonitorFsm.lean. -/

namespace Sys2Proof.Machine

/-- MON START: MON_EN <- 1; from M_OFF the monitor enters M_IDLE; response 0x00 (R220). -/
def execMonstart (x : BitVec 4) (s : State) : Result :=
  .next (s.accept (commandWord (.monstart x)) fun t =>
    State.respond 0x00#8 { t with monEn := true, mon := if t.mon = .mOff then .mIdle else t.mon })

/-- MON STOP: MON_EN <- 0; response 0x00; a debounce or dispatch in progress is not interrupted (R220, R230). -/
def execMonstop (x : BitVec 4) (s : State) : Result :=
  .next (s.accept (commandWord (.monstop x)) fun t => State.respond 0x00#8 { t with monEn := false })

end Sys2Proof.Machine
end

