-- ==== Sys2Proof/Machine/BitOps.lean ====
section
/-! DEFINITION. BitOps, the pure bit functions of 40_bitops.md (R140, R141, R144). They read and write no state. -/

namespace Sys2Proof.Machine

/-- `setBit(b, pos, s) = (b & ~(1 << pos)) | ((1 - s) << pos)`, the active-low transform: ON writes a 0 bit, OFF a 1
bit, every other bit is kept (R140). -/
def setBit (b : Byte) (pos : Nat) (on : Bool) : Byte :=
  (b &&& ~~~(1#8 <<< pos)) ||| ((if on then 0#8 else 1#8) <<< pos)

/-- `getBit(b, pos) = b[pos]`, no inversion (R141). -/
def getBit (b : Byte) (pos : Nat) : Bool := b.getLsbD pos

/-- `ledState(b, pos) = 1 - getBit(b, pos)`, true for ON (R144). -/
def ledState (b : Byte) (pos : Nat) : Bool := !getBit b pos

/-- A byte with one bit put to a level, every other bit kept; used by the peripheral's pins and flags (R96, R97). -/
def putBit (b : Byte) (pos : Nat) (level : Bool) : Byte := setBit b pos (!level)

/-- `zext_8` of one bit (R9). -/
def bitByte (x : Bool) : Byte := (BitVec.ofBool x).setWidth 8

end Sys2Proof.Machine
end

