-- ==== Sys2Proof/Machine/Memory.lean ====
section
/-! DEFINITION. The register space as data: a list of (address, byte) cells in one canonical form, addresses strictly
rising and no entry equal to what an unlisted address reads as, so that equal memories are equal lists. Every access
moves exactly one byte (R70, R72, R73). -/

namespace Sys2Proof.Machine

/-- What an address reads as that nothing has written: a free byte per address (R51, U3; log 2). -/
def Memory.unlisted (a : Nat) : Byte := Config.powerOn a

/-- The byte at an address. -/
def Memory.read (m : List Host.Cell) (a : Nat) : Byte :=
  match m with
  | [] => Memory.unlisted a
  | c :: rest => if c.1 = a then c.2 else Memory.read rest a

/-- Put one cell in front of a list, unless it says what the address reads as anyway. -/
def Memory.cons (a : Nat) (v : Byte) (m : List Host.Cell) : List Host.Cell :=
  if v = Memory.unlisted a then m else (a, v) :: m

/-- Store a byte, keeping the canonical form. -/
def Memory.write (m : List Host.Cell) (a : Nat) (v : Byte) : List Host.Cell :=
  match m with
  | [] => Memory.cons a v []
  | c :: rest =>
    if a < c.1 then Memory.cons a v (c :: rest)
    else if a = c.1 then Memory.cons a v rest
    else c :: Memory.write rest a v

/-- The canonical form: addresses strictly rising, no entry equal to what an unlisted address reads as. -/
abbrev Memory.wf (m : List Host.Cell) : Prop :=
  (m.map Prod.fst).Pairwise (· < ·) ∧ ∀ c ∈ m, c.2 ≠ Memory.unlisted c.1

end Sys2Proof.Machine
end

