-- ==== Sys2Proof/Machine/RegisterMap.lean ====
section
/-! DEFINITION. The address map of the expander: eight registers at fixed addresses (R38, R80) and which of them the
LDC reads or writes (R80, R82). -/

namespace Sys2Proof.Machine

/-- The expander's registers (R38 to R46). -/
inductive Reg where
  | iodir    -- pin direction, 1 = input (R39)
  | gpinten  -- interrupt-on-change enable (R40)
  | defval   -- default compare value (R41)
  | intcon   -- compare with DEFVAL (1) or with the previous level (0) (R42)
  | gppu     -- pull-up enable (R43)
  | intf     -- interrupt flags (R44)
  | gpio     -- live input-state; reading it clears INTF (R45)
  | olat     -- output latch (R46)
deriving DecidableEq, Repr

/-- The address of a register (R80). -/
def Reg.addr : Reg → Byte
  | .iodir => 0x00#8
  | .gpinten => 0x02#8
  | .defval => 0x03#8
  | .intcon => 0x04#8
  | .gppu => 0x06#8
  | .intf => 0x07#8
  | .gpio => 0x09#8
  | .olat => 0x0A#8

/-- The register at an address; none at 0x01, 0x05, 0x08 and 0x0B to 0xFF (R81). -/
def Reg.ofAddr (a : Byte) : Option Reg :=
  match a.toNat with
  | 0x00 => some .iodir
  | 0x02 => some .gpinten
  | 0x03 => some .defval
  | 0x04 => some .intcon
  | 0x06 => some .gppu
  | 0x07 => some .intf
  | 0x09 => some .gpio
  | 0x0A => some .olat
  | _ => none

/-- The two registers the LDC reads (R80, R82). -/
def Reg.readable : Reg → Bool
  | .intf => true
  | .gpio => true
  | .iodir => false
  | .gpinten => false
  | .defval => false
  | .intcon => false
  | .gppu => false
  | .olat => false

/-- The six registers the LDC writes (R80, R82). -/
def Reg.writable (r : Reg) : Bool := !r.readable

end Sys2Proof.Machine
end

