-- ==== Sys2Proof/Machine/Expander.lean ====
section
/-! DEFINITION. The expander: its registers, the reference peripheral model (RPM, R92 to R99) and the events of its
environment. The LDC's rules hold against any peripheral (R77): an answer `ok v` carries any byte; what the expander
STORES is kept in either case by the rules of its registers (R38 to R46, R83 to R91; log 14). -/

namespace Sys2Proof.Machine

/-- The byte stored in a register of the expander. GPIO has no storage of its own (R51); see `State.gpio`. -/
def State.reg (r : Reg) (s : State) : Byte := Memory.read s.mem r.addr.toNat

/-- Store a byte in a register of the expander. -/
def State.setReg (r : Reg) (v : Byte) (s : State) : State := { s with mem := Memory.write s.mem r.addr.toNat v }

/-- The levels of the pins seen from outside, the PIN of R92 to R97: what drives a pin, and 1 on a pin that nothing drives
and GPPU pulls up, whenever GPPU was written (R43, R86: "a released one reads 1"; log 11). -/
def State.levels (s : State) : Byte := s.pin ||| (s.undriven &&& s.reg .gppu)

/-- What a read of GPIO returns: `g[i] = PIN[i] if IODIR[i] = 1 else OLAT[i]` (R85, R95). -/
def State.gpio (s : State) : Byte := (s.levels &&& s.reg .iodir) ||| (s.reg .olat &&& ~~~(s.reg .iodir))

/-- The byte the reference peripheral answers to a read (R94, R95). -/
def State.rpmRead (r : Reg) (s : State) : Byte :=
  match r with
  | .gpio => s.gpio
  | .intf => s.reg .intf
  | .iodir => s.reg .iodir
  | .gpinten => s.reg .gpinten
  | .defval => s.reg .defval
  | .intcon => s.reg .intcon
  | .gppu => s.reg .gppu
  | .olat => s.reg .olat

/-- The side effect of a read answered ok: a read of GPIO clears INTF, all bits; no other read changes anything
(R44, R45, R83, R88, R89). -/
def State.readEffect (r : Reg) (s : State) : State := if r = .gpio then s.setReg .intf 0x00#8 else s

/-- The side effect of a write answered err: the register "may hold its old value, the new one, or anything" (U7): a
free byte (log 10). -/
def State.failedWriteEffect (r : Reg) (s : State) : State :=
  { s.setReg r (Config.failedWrite s.draws) with draws := s.draws + 1 }

/-- Interrupt-on-change: pin `i` has gone from level `old` to `new`. With GPINTEN[i] = 1 on an input pin there is an
interrupt when the pin differs from DEFVAL[i] (INTCON[i] = 1) or from its previous level (INTCON[i] = 0) (R87, R96). -/
def State.changeInterrupts (i : Nat) (old new : Bool) (s : State) : Bool :=
  getBit (s.reg .gpinten) i && getBit (s.reg .iodir) i &&
    (bif getBit (s.reg .intcon) i then new != getBit (s.reg .defval) i else new != old)

/-- Latch an interrupt: INTF[i] <- 1 (R87, R96). -/
def State.latch (i : Nat) (s : State) : State := s.setReg .intf (putBit (s.reg .intf) i true)

/-- An event on pin `i`: its level from outside, whether anything drives it now, and the interrupt if there is one. -/
def State.movePin (i : Nat) (level driven flag : Bool) (s : State) : State :=
  let t : State := { s with pin := putBit s.pin i level, undriven := putBit s.undriven i (!driven) }
  bif flag then t.latch i else t

/-- `Press(i)`: PIN[i] <- 0, then the interrupt rule (R96). -/
def State.press (b : Button) (s : State) : State :=
  s.movePin b.pin false true (s.changeInterrupts b.pin (getBit s.levels b.pin) false)

/-- The level of a pin as its button is released: 1, the pull-up, if GPPU[i] = 1 (R97); otherwise nothing drives it and
its level is a free bit (U12; log 12). -/
def State.releasedLevel (b : Button) (s : State) : Bool :=
  getBit (s.reg .gppu) b.pin || Config.floatingLevel s.draws

/-- Whether a release sets its flag: never with INTCON[i] = 1 and DEFVAL[i] = 1 (R97), else by the general rule R87
(DEDUCED, unsafe: log 13). -/
def State.releaseInterrupts (b : Button) (s : State) : Bool :=
  !(getBit (s.reg .intcon) b.pin && getBit (s.reg .defval) b.pin) &&
    s.changeInterrupts b.pin (getBit s.levels b.pin) (s.releasedLevel b)

/-- `Release(i)` (R97): with GPPU[i] = 1 the pin is at 1; with GPPU[i] = 0 nothing drives it, it has its free level, and
it rises when GPPU[i] becomes 1 (R86; log 12). -/
def State.release (b : Button) (s : State) : State :=
  State.movePin b.pin (s.releasedLevel b) (getBit (s.reg .gppu) b.pin) (s.releaseInterrupts b)
    { s with draws := bif getBit (s.reg .gppu) b.pin then s.draws else s.draws + 1 }

/-- `SetFlag(m)`: INTF <- INTF | m (R98; R91). -/
def State.setFlag (m : Byte) (s : State) : State := s.setReg .intf (s.reg .intf ||| m)

end Sys2Proof.Machine
end

