-- ==== Sys2Proof/Machine/Transport.lean ====
section
/-! DEFINITION. The transport calls (R74 to R79): one call with its answer, atomic. The answer is the field `ans`; the
call is appended to the trace, takes effect in the expander, and on `err` raises the fatal error of the issuing step
(R78). What the issuing agent does with an `ok` answer is the agent's (Sequencer.lean, MonitorFsm.lean; log 8). -/

namespace Sys2Proof.Machine

/-- The byte of an answered read goes to the rest of the issuing step (log 5). -/
def State.takeByte (v : Byte) (s : State) : State := { s with rdata := v }

/-- A read-byte call to a register, answered `ok` with the byte `v`: the trace entry `RD(reg) -> v`, the side effect in
the expander (R76, R83). -/
def State.readOk (r : Reg) (v : Byte) (s : State) : State :=
  ((s.readEffect r).takeByte v).log (.rd r.addr (some v))

/-- A read-byte call answered `err`: the trace entry, then the fatal error with the register address; the expander is as
it was (R78, R263). -/
def State.readErr (r : Reg) (s : State) : State :=
  (s.log (.rd r.addr none)).raise s.callError r.addr

/-- The byte a read is answered with: any byte, or the reference peripheral's; none on `err` (R77, R94, R95). -/
def answeredByte (a : Answer) (r : Reg) (s : State) : Option Byte :=
  match a with
  | .ok v => some v
  | .reference => some (s.rpmRead r)
  | .err => none

/-- A read-byte call with its answer (R76 to R78, R94, R95). -/
def State.readCall (r : Reg) (s : State) : State :=
  match answeredByte s.ans r s with
  | some v => s.readOk r v
  | none => s.readErr r

/-- A write-byte call answered `ok`: the trace entry, the byte is stored, no interrupt is latched (R76, R84, R93). -/
def State.writeOk (r : Reg) (v : Byte) (s : State) : State := (s.setReg r v).log (.wr r.addr v true)

/-- A write-byte call answered `err`: the trace entry, then the fatal error with the register address (R78, U7). -/
def State.writeErr (r : Reg) (v : Byte) (s : State) : State :=
  ((s.failedWriteEffect r).log (.wr r.addr v false)).raise s.callError r.addr

/-- A write-byte call with its answer (R76 to R78, R93). -/
def State.writeCall (r : Reg) (v : Byte) (s : State) : State :=
  if s.ans = .err then s.writeErr r v else s.writeOk r v

/-- BUS.RD (R76). A request requires HANDLE_V = 1: without it no step is enabled and nothing happens (R10). The word's
low byte is not looked at. Another device (91 N28), an address without a register (U8) and a register the LDC only
writes (U9) have no meaning in the spec and are refused (R93, R95; log 9). -/
def execBusRd (dev : DevAddr) (reg _x : Byte) (s : State) : Result :=
  if s.handleV = false then .next s
  else if dev ≠ s.cfgDev then .refused (.otherDevice dev)
  else
    match Reg.ofAddr reg with
    | none => .refused (.noSuchRegister reg)
    | some r => bif r.readable then .next (s.readCall r) else .refused (.readNotSpecified reg)

/-- BUS.WR (R76), with the same conditions; INTF and GPIO are not written (U9). -/
def execBusWr (dev : DevAddr) (reg v : Byte) (s : State) : Result :=
  if s.handleV = false then .next s
  else if dev ≠ s.cfgDev then .refused (.otherDevice dev)
  else
    match Reg.ofAddr reg with
    | none => .refused (.noSuchRegister reg)
    | some r => bif r.writable then .next (s.writeCall r v) else .refused (.writeNotSpecified reg)

/-- BUS.OPEN (R75): `open(bus)`, issued in S_OPEN and nowhere else. On ok HANDLE_V <- 1 and HANDLE_BUS holds the number
that was opened (R30); on err BusOpenError(0x00). -/
def execBusOpen (bus : Byte) (s : State) : Result :=
  .next (if s.seq = .sOpen then
    if s.ans = .err then (s.log (.openBus bus false)).raise .busOpenError 0x00#8
    else State.log (.openBus bus true) { s with handleV := true, handleBus := bus }
  else s)

end Sys2Proof.Machine
end

