-- ==== Sys2Proof/Machine/Dispatch.lean ====
section
/-! DEFINITION. exec: one arm per instruction, each a direct call of its meaning. -/

namespace Sys2Proof.Machine

def exec (i : Instr) (s : State) : Host.Outcome State Fault Refusal :=
  match i with
  | .init x => Sys2Proof.Machine.execInit x s
  | .setled on p => Sys2Proof.Machine.execSetled on p s
  | .setleds on x => Sys2Proof.Machine.execSetleds on x s
  | .getled x p => Sys2Proof.Machine.execGetled x p s
  | .pollbtn x => Sys2Proof.Machine.execPollbtn x s
  | .clrint x => Sys2Proof.Machine.execClrint x s
  | .btnstate x p => Sys2Proof.Machine.execBtnstate x p s
  | .monstart x => Sys2Proof.Machine.execMonstart x s
  | .monstop x => Sys2Proof.Machine.execMonstop x s
  | .busRd dev reg x => Sys2Proof.Machine.execBusRd dev reg x s
  | .busWr dev reg v => Sys2Proof.Machine.execBusWr dev reg v s
  | .busOpen bus => Sys2Proof.Machine.execBusOpen bus s

end Sys2Proof.Machine
end

