-- ==== Sys2Proof/Machine/Flags.lean ====
section
/-! DEFINITION. What is computed from flags and codes: the status flags of the LDC, functions of SEQ (R32) and the
status ports (R8); the numeric codes of the enumerations (R23, R27, R29, R122, R251); the decode of the interrupt
flags (R145). No instruction sets a condition code (R32). -/

namespace Sys2Proof.Machine

/-- The 5-bit code of SEQ (R23). -/
def Seq.code : Seq → BitVec 5
  | .sReset => 0 | .sOpen => 1 | .sProbe => 2 | .sPullup => 3 | .sDir => 4 | .sLedsOff => 5 | .sInten => 6
  | .sDefval => 7 | .sIntcon => 8 | .sIntclr => 9 | .sFlashOn => 10 | .sHoldOn => 11 | .sFlashOff => 12
  | .sHoldOff => 13 | .sReady => 14 | .sExec1 => 15 | .sExec2 => 16 | .sHalt => 31

/-- The 3-bit code of MON (R27). -/
def Mon.code : Mon → BitVec 3
  | .mOff => 0 | .mIdle => 1 | .mDebounce => 2 | .mClear => 3 | .mDispatch => 4

/-- The 2-bit code of LOCK (R29). -/
def Lock.code : Lock → BitVec 2
  | .free => 0 | .host => 1 | .mon => 2

/-- The event code: 0b00 none, 0b01 SW1, 0b10 SW2 (R122). -/
def Event.code : Event → BitVec 2
  | .none => 0b00#2 | .sw1 => 0b01#2 | .sw2 => 0b10#2

/-- The 3-bit cause code (R251). -/
def ErrCode.code : ErrCode → BitVec 3
  | .none => 0 | .busOpenError => 1 | .deviceNotFoundError => 2 | .invalidPinError => 3 | .invalidButtonError => 4
  | .transportError => 5

/-- READY = (SEQ = S_READY) (R32); the port st_ready (R8). -/
def State.ready (s : State) : Bool := s.seq == .sReady

/-- HALTED = (SEQ = S_HALT) (R32); the port st_halted (R8). -/
def State.halted (s : State) : Bool := s.seq == .sHalt

/-- INITIALISING = (S_OPEN <= SEQ <= S_HOLD_OFF) (R32). -/
def State.initialising (s : State) : Bool := 1 ≤ s.seq.code.toNat && s.seq.code.toNat ≤ 13

/-- BUSY = (SEQ is S_EXEC1 or S_EXEC2) (R32). -/
def State.busy (s : State) : Bool := s.seq == .sExec1 || s.seq == .sExec2

/-- The port st_err, the code of ERR (R8, R33). -/
def State.stErr (s : State) : BitVec 3 := s.err.code

/-- The port st_info, ERR_INFO (R8, R34). -/
def State.stInfo (s : State) : Byte := s.errInfo

/-- `decodeButton(f)`: bit 6 (SW1) first, then bit 7 (SW2), else none; bits 0 to 5 are not looked at (R145). -/
def decodeButton (f : Byte) : Event :=
  bif getBit f 6 then .sw1 else bif getBit f 7 then .sw2 else .none

/-- The event code zero-extended to a response byte (R121, R200). -/
def eventByte (e : Event) : Byte := e.code.setWidth 8

end Sys2Proof.Machine
end

