-- ==== Sys2Proof/Machine/Sequencer.lean ====
section
/-! DEFINITION. The command sequencer, agent SEQ (R23, R24): which transport request its next step issues, when that
step is enabled, and what it does with the answer. The request is an instruction, run by `exec`. -/

namespace Sys2Proof.Machine

/-- A read request of the LDC: device CFG_DEV, wdata 0x00 (R70, R76). -/
def readRequest (r : Reg) (s : State) : Instr := .busRd s.cfgDev r.addr 0x00#8

/-- A write request of the LDC: device CFG_DEV (R70, R76). -/
def writeRequest (r : Reg) (v : Byte) (s : State) : Instr := .busWr s.cfgDev r.addr v

/-- The transaction of S_EXEC1, the first or only one of the command in CMDR (R180 to R182, R200 to R202). INIT, MON
and the requests never reach S_EXEC1 (R24; log 16). -/
def exec1Request (s : State) : Option Instr :=
  match decodeCommand s.cmdr with
  | .setled _ _ => some (readRequest .gpio s)
  | .setleds on _ => some (writeRequest .olat (if on then Config.allOn else Config.allOff) s)
  | .getled _ _ => some (readRequest .gpio s)
  | .pollbtn _ => some (readRequest .intf s)
  | .clrint _ => some (readRequest .gpio s)
  | .btnstate _ _ => some (readRequest .intf s)
  | .init _ => none
  | .monstart _ => none
  | .monstop _ => none
  | .busRd _ _ _ => none
  | .busWr _ _ _ => none
  | .busOpen _ => none

/-- The transaction of S_EXEC2, the write of SETLED: `setBit(TMP, p, s)` to OLAT (R180). -/
def exec2Request (s : State) : Option Instr :=
  match decodeCommand s.cmdr with
  | .setled on p => some (writeRequest .olat (setBit s.tmp p.toNat on) s)
  | .init _ => none
  | .setleds _ _ => none
  | .getled _ _ => none
  | .pollbtn _ => none
  | .clrint _ => none
  | .btnstate _ _ => none
  | .monstart _ => none
  | .monstop _ => none
  | .busRd _ _ _ => none
  | .busWr _ _ _ => none
  | .busOpen _ => none

/-- The transport request that the sequencer's next step issues, if that step is a transport call (R23, R82). -/
def seqRequest (s : State) : Option Instr :=
  match s.seq with
  | .sOpen => some (.busOpen s.cfgBus)
  | .sProbe => some (readRequest .gpio s)
  | .sPullup => some (writeRequest .gppu Config.cfgBtn s)
  | .sDir => some (writeRequest .iodir Config.cfgBtn s)
  | .sLedsOff => some (writeRequest .olat Config.allOff s)
  | .sInten => some (writeRequest .gpinten Config.cfgBtn s)
  | .sDefval => some (writeRequest .defval Config.cfgBtn s)
  | .sIntcon => some (writeRequest .intcon Config.cfgBtn s)
  | .sIntclr => some (readRequest .gpio s)
  | .sFlashOn => some (writeRequest .olat Config.allOn s)
  | .sFlashOff => some (writeRequest .olat Config.allOff s)
  | .sExec1 => exec1Request s
  | .sExec2 => exec2Request s
  | .sReset => none
  | .sHoldOn => none
  | .sHoldOff => none
  | .sReady => none
  | .sHalt => none

/-- Whether the sequencer's transaction step is enabled: HANDLE_V = 1 (R76) and LOCK = FREE, or LOCK = HOST in
S_EXEC2 (R100, R101); `open` needs neither (R152). -/
def seqMayCall (s : State) : Bool :=
  match s.seq with
  | .sOpen => true
  | .sExec2 => s.handleV && s.lock == .host
  | .sReset | .sProbe | .sPullup | .sDir | .sLedsOff | .sInten | .sDefval | .sIntcon | .sIntclr | .sFlashOn
  | .sHoldOn | .sFlashOff | .sHoldOff | .sReady | .sExec1 | .sHalt => s.handleV && s.lock == .free

/-- The end of S_EXEC1 after an `ok` answer (R180 to R182, R200 to R202). The byte read is `rdata`. -/
def finishExec1 (s : State) : State :=
  match decodeCommand s.cmdr with
  | .setled _ _ => { s with tmp := s.rdata, lock := .host, seq := .sExec2 }
  | .setleds _ _ => s.respond 0x00#8
  | .getled _ p => s.respond (bitByte (ledState s.rdata p.toNat))
  | .pollbtn _ => s.respond (eventByte (decodeButton s.rdata))
  | .clrint _ => s.respond 0x00#8
  | .btnstate _ p => s.respond (bitByte (getBit s.rdata p.toNat))
  | .init _ => s
  | .monstart _ => s
  | .monstop _ => s
  | .busRd _ _ _ => s
  | .busWr _ _ _ => s
  | .busOpen _ => s

/-- The end of the sequencer's transaction step after an `ok` answer: "in strict order" the next state (R24, R152 to
R163), the loads of HT (R161, R163), the end of a command (R180 to R202). -/
def seqFinish (s : State) : State :=
  match s.seq with
  | .sOpen => { s with seq := .sProbe }
  | .sProbe => { s with seq := .sPullup }
  | .sPullup => { s with seq := .sDir }
  | .sDir => { s with seq := .sLedsOff }
  | .sLedsOff => { s with seq := .sInten }
  | .sInten => { s with seq := .sDefval }
  | .sDefval => { s with seq := .sIntcon }
  | .sIntcon => { s with seq := .sIntclr }
  | .sIntclr => { s with seq := .sFlashOn }
  | .sFlashOn => { s with ht := Config.flashHoldMs, seq := .sHoldOn }
  | .sFlashOff => { s with ht := Config.flashHoldMs, seq := .sHoldOff }
  | .sExec1 => finishExec1 s
  | .sExec2 => State.respond 0x00#8 { s with lock := .free }
  | .sReset => s
  | .sHoldOn => s
  | .sHoldOff => s
  | .sReady => s
  | .sHalt => s

/-- Go on with a next state; a fault or a refusal stands. -/
def Result.andThen (r : Result) (f : State → State) : Result :=
  match r with
  | .next t => .next (f t)
  | .fault e => .fault e
  | .refused e => .refused e

/-- One transport call of an agent, atomic with its answer: run the request, then what the agent does after an `ok`
answer; after `err` "nothing else of the raising step happens" (R262). -/
def agentCall (who : Agent) (i : Instr) (a : Answer) (finish : State → State) (s : State) : Result :=
  Result.andThen (exec i { s with turn := who, ans := a }) fun t => if a = .err then t else finish t

/-- One step of the sequencer; a state with no enabled step holds (R10). The holds of the self-test flash end when HT
is zero (R162, R164). -/
def seqStep (a : Answer) (s : State) : Result :=
  match s.seq with
  | .sHoldOn => .next (if s.ht = 0#16 then { s with seq := .sFlashOff } else s)
  | .sHoldOff => .next (if s.ht = 0#16 then s.respond 0x00#8 else s)
  | .sReset | .sReady | .sHalt => .next s
  | .sOpen | .sProbe | .sPullup | .sDir | .sLedsOff | .sInten | .sDefval | .sIntcon | .sIntclr | .sFlashOn
  | .sFlashOff | .sExec1 | .sExec2 =>
    match seqRequest s with
    | some i => bif seqMayCall s then agentCall .sequencer i a seqFinish s else .next s
    | none => .next s

end Sys2Proof.Machine
end

