-- ==== Sys2Proof/Machine/MonitorFsm.lean ====
section
/-! DEFINITION. The monitor FSM, agent MON (R27, R221): Idle, Debounce, Dispatch split into the clearing read and the
delivery. Its two transactions are BUS.RD requests run by `exec`. -/

namespace Sys2Proof.Machine

/-- The transport request that the monitor's next step issues, if that step is a transport call: an INTF read in M_IDLE
while MON_EN = 1 (R223), a GPIO read in M_CLEAR (R227). -/
def monRequest (s : State) : Option Instr :=
  match s.mon with
  | .mIdle => bif s.monEn then some (readRequest .intf s) else none
  | .mClear => some (readRequest .gpio s)
  | .mOff => none
  | .mDebounce => none
  | .mDispatch => none

/-- The end of the monitor's transaction step after an `ok` answer: detection (R223, R224), or the end of the clearing
read, whose byte is discarded (R227). -/
def monFinish (s : State) : State :=
  match s.mon with
  | .mIdle =>
    match decodeButton s.rdata with
    | .none => s
    | .sw1 => { s with evt := .sw1, dbt := Config.debounceMs, mon := .mDebounce }
    | .sw2 => { s with evt := .sw2, dbt := Config.debounceMs, mon := .mDebounce }
  | .mClear => { s with mon := .mDispatch }
  | .mOff => s
  | .mDebounce => s
  | .mDispatch => s

/-- Whether the monitor's transaction step is enabled: HANDLE_V = 1 and LOCK = FREE (R76, R100, R101). -/
def monMayCall (s : State) : Bool := s.handleV && s.lock == .free

/-- The monitor's transaction step. -/
def monCall (a : Answer) (s : State) : Result :=
  match monRequest s with
  | some i => bif monMayCall s then agentCall .monitor i a monFinish s else .next s
  | none => .next s

/-- One step of the monitor while the LDC is not halted; a state with no enabled step holds. M_IDLE with MON_EN = 0
stops (R230); M_DEBOUNCE ends when DBT is zero (R226); M_DISPATCH delivers EVT when the consumer is ready (R228). -/
def monLive (a : Answer) (s : State) : Result :=
  match s.mon with
  | .mOff => .next s
  | .mIdle => bif s.monEn then monCall a s else .next { s with mon := .mOff }
  | .mDebounce => .next (if s.dbt = 0#16 then { s with mon := .mClear } else s)
  | .mClear => monCall a s
  | .mDispatch => .next (bif s.evtReady then State.emit s.evt { s with mon := .mIdle } else s)

/-- One step of the monitor; nothing is enabled in S_HALT (R223, R267). -/
def monStep (a : Answer) (s : State) : Result :=
  if s.seq = .sHalt then .next s else monLive a s

end Sys2Proof.Machine
end

