-- ==== Sys2Proof/Machine/Moves.lean ====
section
/-! DEFINITION. One move as a step of the machine (R6), and which move comes next (R102, R314; log 4). -/

namespace Sys2Proof.Machine

/-- The next move and the state without it: the first of the list, or a free move when the list is empty. -/
def State.nextMove (s : State) : Move × State :=
  match s.inputs with
  | m :: rest => (m, { s with inputs := rest })
  | [] => (Config.freeMove s.draws, { s with draws := s.draws + 1 })

/-- What a move does (R6): a command offered at the command port is decoded and run (R110), an agent takes its step, or
the environment moves. -/
def runMove (m : Move) (s : State) : Result :=
  match m with
  | .offer w => exec (decodeCommand w) s
  | .seq a => seqStep a s
  | .mon a => monStep a s
  | .tick => .next s.tick
  | .consumer b => .next { s with evtReady := b }
  | .press b => .next (s.press b)
  | .release b => .next (s.release b)
  | .setFlag m => .next (s.setFlag m)
  | .reset => .next s.ldcReset

/-- A list of moves, one step each, stopping at the first fault or refusal: for statements about several steps. -/
def runMoves (ms : List Move) (s : State) : Result :=
  match ms with
  | [] => .next s
  | m :: rest =>
    match runMove m s with
    | .next t => runMoves rest t
    | .fault e => .fault e
    | .refused e => .refused e

end Sys2Proof.Machine
end

