-- ==== Sys2Proof/WellFormed.lean ====
section
/-! DEFINITION. Well-formed instructions. Every command word is well formed: there is no illegal opcode, an ignored
field may hold any value, and an illegal pin operand is a legal word whose acceptance raises an error (R117 to R119).
A transport request is well formed when it has the form of a request that the LDC issues (R76, R82): R81 says there
are no others. -/

namespace Sys2Proof

open Machine

/-- A read request: the register is INTF or GPIO (R82) and wdata is 0x00 (R76). -/
def Instr.wfRead (reg x : Byte) : Bool :=
  (reg == Reg.intf.addr || reg == Reg.gpio.addr) && x == 0x00#8

/-- A write request: any byte to OLAT (R180, R181), `CFG_BTN` to the five configuration registers (R154 to R159). -/
def Instr.wfWrite (reg v : Byte) : Bool :=
  reg == Reg.olat.addr ||
    ((reg == Reg.gppu.addr || reg == Reg.iodir.addr || reg == Reg.gpinten.addr || reg == Reg.defval.addr
      || reg == Reg.intcon.addr) && v == Config.cfgBtn)

/-- The words of the LDC: every command, and every transport request that has the form of one the LDC issues. -/
def Instr.wf : Instr → Bool
  | .init _ => true
  | .setled _ _ => true
  | .setleds _ _ => true
  | .getled _ _ => true
  | .pollbtn _ => true
  | .clrint _ => true
  | .btnstate _ _ => true
  | .monstart _ => true
  | .monstop _ => true
  | .busRd _ reg x => Instr.wfRead reg x
  | .busWr _ reg v => Instr.wfWrite reg v
  | .busOpen _ => true

/-- Well-formedness as a proposition. -/
abbrev Instr.WellFormed (i : Instr) : Prop := i.wf = true

end Sys2Proof
end

