-- ==== Sys2Proof/Machine/Fetch.lean ====
section
/-! DEFINITION. Placing an instruction where the next step runs it (log 19). The LDC fetches nothing (R71): a command
word comes from the host's port, a request word from the state of the sequencer. -/

namespace Sys2Proof.Machine

/-- The state of SEQ that accepts a command: S_RESET for INIT, S_READY for every other (R127). -/
def acceptingSeq (w : Byte) : Seq :=
  match decodeCommand w with
  | .init _ => .sReset
  | .setled _ _ | .setleds _ _ | .getled _ _ | .pollbtn _ | .clrint _ | .btnstate _ _ | .monstart _ | .monstop _
  | .busRd _ _ _ | .busWr _ _ _ | .busOpen _ => .sReady

/-- The host's next move offers the command word, to a sequencer in the state that accepts it. -/
def State.placeCommand (w : Byte) (s : State) : State :=
  { s with seq := acceptingSeq w, inputs := .offer w :: s.inputs }

/-- The sequencer takes the next step, answered by the reference peripheral; the device address is `dev`, the handle is
open and the lock is free. -/
def State.grantCall (dev : DevAddr) (s : State) : State :=
  { s with cfgDev := dev, handleV := true, lock := .free, inputs := .seq .reference :: s.inputs }

/-- A command word SETLED LED1 whose write is the byte `v` when TMP is `v` (R140, R180). -/
def setledWriting (v : Byte) : Byte := wordOpSP 0b001#3 (!v.getLsbD 0) 0#4

/-- The sequencer is put where its next step issues the request: a read as the transaction of CLRINT or POLLBTN, a write
of OLAT as the second transaction of SETLED, a configuration write as its step of INIT (R82). -/
def State.placeRequest (i : Instr) (s : State) : State :=
  match i with
  | .busRd dev reg _ =>
    { s.grantCall dev with
      seq := .sExec1, cmdr := if reg = Reg.gpio.addr then wordOpX 0b101#3 0#5 else wordOpX 0b100#3 0#5 }
  | .busWr dev reg v =>
    match Reg.ofAddr reg with
    | some .gppu => { s.grantCall dev with seq := .sPullup }
    | some .iodir => { s.grantCall dev with seq := .sDir }
    | some .gpinten => { s.grantCall dev with seq := .sInten }
    | some .defval => { s.grantCall dev with seq := .sDefval }
    | some .intcon => { s.grantCall dev with seq := .sIntcon }
    | some .olat | some .intf | some .gpio | none =>
      { s.grantCall dev with seq := .sExec2, lock := .host, cmdr := setledWriting v, tmp := v }
  | .busOpen n => { s with cfgBus := n, seq := .sOpen, inputs := .seq .reference :: s.inputs }
  | .init _ | .setled _ _ | .setleds _ _ | .getled _ _ | .pollbtn _ | .clrint _ | .btnstate _ _ | .monstart _
  | .monstop _ => s

/-- Place a decoded request. A request that is not well formed is issued by no state of the LDC (R81, R82): then only
the grant is placed, and the step does whatever the state it finds enables. -/
def State.placeIssued (i : Instr) (s : State) : State :=
  if i.wf then s.placeRequest i else { s with inputs := .seq .reference :: s.inputs }

end Sys2Proof.Machine
end

