-- ==== Sys2Proof/Machine/Step.lean ====
section
/-! DEFINITION. The step: take the next move and run it (R6). -/

namespace Sys2Proof.Machine

/-- One step of the machine. -/
def step (s : State) : Host.Outcome State Fault Refusal := runMove s.nextMove.1 s.nextMove.2

/-- The state with a table word placed where the next step runs it: 8 bits at the command port, 24 bits as the request
of the sequencer's next step (log 19). -/
def State.withFetchWord (s : State) (nbits w : Nat) : State :=
  match decodeTableWord nbits w with
  | none => s
  | some i => if nbits = 8 then s.placeCommand (BitVec.ofNat 8 w) else s.placeIssued i

end Sys2Proof.Machine
end

