-- ==== Sys2Proof/Machine/Assembler.lean ====
section
/-! DEFINITION. The assembler syntax and the pseudo-operations (R124, R125). A line is a mnemonic and its operands, pin
before state, as tokens: how the tokens are spelled as text is R124's and nothing in the model reads text. -/

namespace Sys2Proof.Machine

/-- The mnemonics of R124, R125, each the source operation R126 names. -/
inductive AsmOp where
  | INIT | SETLED | SETLEDS | GETLED | POLLBTN | CLRINT | BTNSTATE | MON
  | LEDON | LEDOFF | ALLON | ALLOFF | MONSTART | MONSTOP
deriving DecidableEq, Repr

/-- The operands of R124. -/
inductive AsmArg where
  | led (k : Fin 6)       -- LED1 .. LED6, as 0 .. 5
  | sw (k : Fin 2)        -- SW1, SW2, as 0, 1
  | raw (n : BitVec 4)    -- #n, a raw pin code
  | on | off              -- ON, OFF
  | start | stop          -- START, STOP
deriving DecidableEq, Repr

/-- The pin code of a pin operand (R114). -/
def AsmArg.pin : AsmArg → Option (BitVec 4)
  | .led k => some (BitVec.ofNat 4 k.val)
  | .sw k => some (BitVec.ofNat 4 (6 + k.val))
  | .raw n => some n
  | .on => none
  | .off => none
  | .start => none
  | .stop => none

/-- The state of a state operand (R113). -/
def AsmArg.state : AsmArg → Option Bool
  | .on => some true
  | .off => some false
  | .led _ => none
  | .sw _ => none
  | .raw _ => none
  | .start => none
  | .stop => none

/-- Assemble one line to the instruction with its ignored fields zero, the canonical encoding (R117, R124, R125); a
line of another shape is no line of the syntax. -/
def assemble (op : AsmOp) (args : List AsmArg) : Option Instr :=
  match op, args with
  | .INIT, [] => some (.init 0#5)
  | .SETLED, [p, s] => p.pin.bind fun p => s.state.map fun s => .setled s p
  | .SETLEDS, [s] => s.state.map fun s => .setleds s 0#4
  | .GETLED, [p] => p.pin.map fun p => .getled false p
  | .POLLBTN, [] => some (.pollbtn 0#5)
  | .CLRINT, [] => some (.clrint 0#5)
  | .BTNSTATE, [p] => p.pin.map fun p => .btnstate false p
  | .MON, [.start] => some (.monstart 0#4)
  | .MON, [.stop] => some (.monstop 0#4)
  | .LEDON, [p] => p.pin.map fun p => .setled true p
  | .LEDOFF, [p] => p.pin.map fun p => .setled false p
  | .ALLON, [] => some (.setleds true 0#4)
  | .ALLOFF, [] => some (.setleds false 0#4)
  | .MONSTART, [] => some (.monstart 0#4)
  | .MONSTOP, [] => some (.monstop 0#4)
  | _, _ => none

end Sys2Proof.Machine
end

