-- ==== Sys2Proof/Safety.lean ====
section
/-! DEFINITION. What a safe state and a run are, in the terms the statements use: the invariants of R52, what INIT
establishes (R295), the launch premises of R315, the end of a run of R313. -/

namespace Sys2Proof

open Machine

/-- The states of SEQ with an open handle: S_PROBE <= SEQ <= S_EXEC2 (R52 item 2). -/
def handleOpenIn (q : Seq) : Bool := 2 ≤ q.code.toNat && q.code.toNat ≤ 16

/-- The states of SEQ in which the monitor may run (R52 item 3). -/
def monitorMayRunIn (q : Seq) : Bool := q == .sReady || q == .sExec1 || q == .sExec2

/-- The states of MON in which an event is latched (R52 item 5). -/
def eventLatchedIn (m : Mon) : Bool := m == .mDebounce || m == .mClear || m == .mDispatch

/-- The states of SEQ in which HT counts (R52 item 7). -/
def holdsIn (q : Seq) : Bool := q == .sHoldOn || q == .sHoldOff

/-- The invariants of R52 that speak about one state: items 1 to 5 and 7. Item 6 (EVT is never 0b11) is in the type
`Event`; item 8 speaks about a step. -/
structure LdcInv (s : State) : Prop where
  err_iff_halt : s.err ≠ .none ↔ s.seq = .sHalt
  handle_iff : s.handleV = true ↔ handleOpenIn s.seq = true
  mon_off : s.mon ≠ .mOff → monitorMayRunIn s.seq = true
  lock_iff : s.lock = .host ↔ s.seq = .sExec2
  lock_not_mon : s.lock ≠ .mon
  evt_latched : eventLatchedIn s.mon = true → s.evt ≠ .none
  dbt_zero : s.mon ≠ .mDebounce → s.dbt = 0#16
  ht_zero : holdsIn s.seq = false → s.ht = 0#16

/-- The addresses at which the expander stores a byte: every mapped register but GPIO (R51, R80). -/
def storesAt (a : Nat) : Prop := ∃ r : Reg, r ≠ .gpio ∧ r.addr.toNat = a

/-- The memory invariant: canonical form, and cells only where the expander has storage. -/
structure MemInv (s : State) : Prop where
  wf : Memory.wf s.mem
  addresses : ∀ c ∈ s.mem, storesAt c.1

/-- The commands that have a transaction in S_EXEC1, with a legal pin (R24, R118). -/
def executes : Instr → Bool
  | .setled _ p => isLed p
  | .setleds _ _ => true
  | .getled _ p => isLed p
  | .pollbtn _ => true
  | .clrint _ => true
  | .btnstate _ p => isSw p
  | .init _ => false
  | .monstart _ => false
  | .monstop _ => false
  | .busRd _ _ _ => false
  | .busWr _ _ _ => false
  | .busOpen _ => false

/-- SETLED with an LED pin, the command of S_EXEC2 (R24, R180). -/
def writesBack : Instr → Bool
  | .setled _ p => isLed p
  | .init _ => false
  | .setleds _ _ => false
  | .getled _ _ => false
  | .pollbtn _ => false
  | .clrint _ => false
  | .btnstate _ _ => false
  | .monstart _ => false
  | .monstop _ => false
  | .busRd _ _ _ => false
  | .busWr _ _ _ => false
  | .busOpen _ => false

/-- CMDR holds a command that executes while SEQ executes it (R21, R24). -/
structure CmdInv (s : State) : Prop where
  exec1 : s.seq = .sExec1 → executes (decodeCommand s.cmdr) = true
  exec2 : s.seq = .sExec2 → writesBack (decodeCommand s.cmdr) = true

/-- A legal state: the invariants together. -/
structure Legal (s : State) : Prop where
  ldc : LdcInv s
  mem : MemInv s
  cmd : CmdInv s

/-- The expander configured by INIT: pins 6, 7 are inputs, pulled up, watched against the default 1; pins 0 to 5 are
outputs and not watched (R295). -/
structure Configured (s : State) : Prop where
  iodir : s.reg .iodir = Config.cfgBtn
  gppu : s.reg .gppu = Config.cfgBtn
  gpinten : s.reg .gpinten = Config.cfgBtn
  defval : s.reg .defval = Config.cfgBtn
  intcon : s.reg .intcon = Config.cfgBtn

/-- The sequencer has left the step `q` behind and is not halted (R24: "in strict order"). -/
def Past (q : Seq) (s : State) : Prop := q.code.toNat < s.seq.code.toNat ∧ s.seq ≠ .sHalt

/-- What INIT has established so far (R151, R152, R154 to R159, R295): the peripheral address from its acceptance on, the
handle's bus while it is open, each configuration register from its own step on. -/
structure SetUp (s : State) : Prop where
  address : s.seq ≠ .sReset → s.cfgBus = Config.busNum ∧ s.cfgDev = Config.devAddr
  handle : s.handleV = true → s.handleBus = Config.busNum
  gppu : Past .sPullup s → s.reg .gppu = Config.cfgBtn
  iodir : Past .sDir s → s.reg .iodir = Config.cfgBtn
  gpinten : Past .sInten s → s.reg .gpinten = Config.cfgBtn
  defval : Past .sDefval s → s.reg .defval = Config.cfgBtn
  intcon : Past .sIntcon s → s.reg .intcon = Config.cfgBtn

/-! ### Runs -/

/-- `P` holds of every step of a run: of the state before it, the move, the state after it. -/
def everyStep (P : State → Move → State → Prop) (ms : List Move) (s : State) : Prop :=
  match ms with
  | [] => True
  | m :: rest => ∀ t, runMove m s = .next t → P s m t ∧ everyStep P rest t

/-- The command word that a move gets accepted: an offered word, in the state of SEQ that accepts it (R110, R127). -/
def acceptedWord (m : Move) (s : State) : List Byte :=
  match m with
  | .offer w => if s.seq = acceptingSeq w then [w] else []
  | .seq _ => []
  | .mon _ => []
  | .tick => []
  | .consumer _ => []
  | .press _ => []
  | .release _ => []
  | .setFlag _ => []
  | .reset => []

/-- The command words accepted along a run, in order. -/
def acceptedIn (ms : List Move) (s : State) : List Byte :=
  match ms with
  | [] => []
  | m :: rest =>
    acceptedWord m s ++
      match runMove m s with
      | .next t => acceptedIn rest t
      | .fault _ => []
      | .refused _ => []

/-- How many accepted commands wait for their response: one while SEQ initialises or executes, none else (R24, R32). -/
def commandsInProgress (s : State) : Nat := if s.initialising || s.busy then 1 else 0

/-! ### Launch premises (R315) -/

/-- `CleanReset`: the LDC's registers and the observation are those of R50. The expander, the outside and the model's own
fields are free. -/
def CleanReset (s : State) : Prop :=
  s = { State.reset with
    cfgBus := s.cfgBus, cfgDev := s.cfgDev, mem := s.mem, pin := s.pin, undriven := s.undriven, evtReady := s.evtReady,
    inputs := s.inputs, turn := s.turn, ans := s.ans, rdata := s.rdata, draws := s.draws }

/-- `Inited`: "SEQ = S_READY reached through a successful INIT, ERR = 0": a run without a reset leads here from a clean
reset with a canonical memory. Nothing but an accepted INIT leaves S_RESET, and nothing but the last step of an INIT
leads from there to S_READY (R24, R127, R291). -/
def Inited (s : State) : Prop :=
  ∃ r ms, CleanReset r ∧ MemInv r ∧ Move.reset ∉ ms ∧ runMoves ms r = .next s ∧ s.seq = .sReady ∧ s.err = .none

/-- `NoTransportError` for one answer: the call is answered ok. -/
abbrev NoTransportError (a : Answer) : Prop := a ≠ .err

/-- `NoTransportError` for a run: "every call answered `ok`". -/
def NoTransportErrorIn (ms : List Move) : Prop := ∀ a, (.seq a ∈ ms ∨ .mon a ∈ ms) → NoTransportError a

/-- A run whose calls the reference peripheral answers (R92 to R95). -/
def AnsweredByReference (ms : List Move) : Prop := ∀ a, (.seq a ∈ ms ∨ .mon a ∈ ms) → a = .reference

/-- `Readback` for one GPIO read: bits 0 to 5 are those of OLAT, on the pins that are outputs (R90: "for output-configured
pins"; after INIT all six are). -/
def ReadsBack (v : Byte) (s : State) : Prop :=
  ∀ i, i < 6 → (s.reg .iodir).getLsbD i = false → v.getLsbD i = (s.reg .olat).getLsbD i

/-- `Readback` for a run: every GPIO read answered with a byte reads the latch back. -/
def Readback (ms : List Move) (s : State) : Prop :=
  everyStep (fun s _ t => ∀ v, t.trace = s.trace ++ [.rd 0x09#8 (some v)] → ReadsBack v s) ms s

/-- `PeripheralP1toP6` for a run: every INTF read is answered with the flags (P5, R88), every GPIO read with the levels of
the input pins (P2, P3, P6: R85, R86, R89). That writes are stored (P1, R84), that a mismatch latches a flag (P4, R87)
and that a GPIO read clears INTF (P6) the model's expander does by itself, whatever the answers are (log 14). -/
def PeripheralP1toP6 (ms : List Move) (s : State) : Prop :=
  everyStep (fun s _ t =>
    (∀ v, t.trace = s.trace ++ [.rd 0x07#8 (some v)] → v = s.reg .intf) ∧
    (∀ v, t.trace = s.trace ++ [.rd 0x09#8 (some v)] → v &&& s.reg .iodir = s.levels &&& s.reg .iodir)) ms s

/-- `MonitorOff`. -/
def MonitorOff (s : State) : Prop := s.mon = .mOff

/-- `MonitorOn`. -/
def MonitorOn (s : State) : Prop := s.mon ≠ .mOff

/-- `ConsumerReady` for a run: "the consumer always takes an event at once". -/
def ConsumerReady (ms : List Move) (s : State) : Prop := s.evtReady = true ∧ Move.consumer false ∉ ms

/-- The moves of the environment that can reach the flags (R91, R96, R97, R98). -/
def byEnvironment : Move → Bool
  | .press _ => true
  | .release _ => true
  | .setFlag _ => true
  | .offer _ => false
  | .seq _ => false
  | .mon _ => false
  | .tick => false
  | .consumer _ => false
  | .reset => false

/-- `NoPress` for a run: "the environment sets no flag during the run": no press, release or SetFlag of it raises one. After
INIT a release never does (R97). -/
def NoPress (ms : List Move) (s : State) : Prop :=
  everyStep (fun s m t => byEnvironment m = true → t.reg .intf = s.reg .intf) ms s

/-! ### The end of a run (R313) -/

/-- A move after the host's last command: the host offers nothing more and does not reset. -/
def monitorActivity : Move → Bool
  | .offer _ => false
  | .reset => false
  | .seq _ => true
  | .mon _ => true
  | .tick => true
  | .consumer _ => true
  | .press _ => true
  | .release _ => true
  | .setFlag _ => true

/-- "The claim is stated for every prefix of the monitor's further activity". -/
def ForEveryPrefix (claim : State → Prop) (t : State) : Prop :=
  ∀ ms u, (∀ m ∈ ms, monitorActivity m = true) → runMoves ms t = .next u → claim u

/-- A list of commands is done at `t`: "every command of the list has been accepted and has responded, SEQ = S_READY,
LOCK = FREE, and either MON = M_OFF or the claim is stated for every prefix of the monitor's further activity". -/
structure CommandsDone (claim : State → Prop) (cmds : List Byte) (ms : List Move) (s t : State) : Prop where
  accepted : acceptedIn ms s = cmds
  responded : t.responses.length = s.responses.length + cmds.length
  ready : t.seq = .sReady
  free : t.lock = .free
  monitor : MonitorOff t ∨ ForEveryPrefix claim t

/-- The run `ms` from `s` (no command in progress) over the commands `cmds` is over at `t`, for a claim: the commands are
done, or SEQ = S_HALT (then those accepted so far are the first ones of the list). R313 does not say whether a run in which
the host resets can be over: here it cannot, a reset begins another run (`noReset`; DESIGN CHOICE, unsafe: log 24). -/
structure RunOver (claim : State → Prop) (cmds : List Byte) (ms : List Move) (s t : State) : Prop where
  run : runMoves ms s = .next t
  noReset : Move.reset ∉ ms
  ended : CommandsDone claim cmds ms s t ∨ (t.seq = .sHalt ∧ acceptedIn ms s <+: cmds)

/-- A good final state: the run is over and ERR = 0; S_HALT is "never a *good* final state". -/
def GoodEnd (claim : State → Prop) (cmds : List Byte) (ms : List Move) (s t : State) : Prop :=
  RunOver claim cmds ms s t ∧ t.err = .none

/-- How many `open` calls a trace holds (R75). -/
def openCalls (tr : List Call) : Nat :=
  tr.countP fun c => match c with | .openBus _ _ => true | .rd _ _ => false | .wr _ _ _ => false

/-- `open` is "issued exactly once per reset-to-reset lifetime" (R75): none before S_OPEN's step, one after it. -/
def OpenOnce (s : State) : Prop := openCalls s.trace = if s.seq = .sReset ∨ s.seq = .sOpen then 0 else 1

end Sys2Proof
end

