-- ==== Sys2Proof/Certificates/Slice0/Obligations.lean ====
section
/-! DEFINITION. The statements for the provers, file by file of the spec. Each docstring names the rule or the section
it formalises. Addresses and bytes stand as the spec writes them, not through the model's names for them. -/

open Sys2Proof Sys2Proof.Machine

/-! ### Encoding (30_encoding.md, 20_memory.md R76) -/

/-- Words of the spec decode to the instructions they stand for: one of each row of the table that a word can be asked
of, from R124, V-D1 and V-D3, ignored fields included. How a 24-bit word's bytes are laid out, and that a table word of 8
bits is read at the command port, is the model's choice (log 15). -/
def Obligations.TableWordsDecode : Prop :=
  decodeTableWord 8 0x00 = some (.init 0#5) ∧ decodeTableWord 8 0x1F = some (.init 31#5) ∧
  decodeTableWord 8 0x30 = some (.setled true 0#4) ∧ decodeTableWord 8 0x22 = some (.setled false 2#4) ∧
  decodeTableWord 8 0x50 = some (.setleds true 0#4) ∧ decodeTableWord 8 0x4A = some (.setleds false 10#4) ∧
  decodeTableWord 8 0x65 = some (.getled false 5#4) ∧ decodeTableWord 8 0x75 = some (.getled true 5#4) ∧
  decodeTableWord 8 0x80 = some (.pollbtn 0#5) ∧ decodeTableWord 8 0xBF = some (.clrint 31#5) ∧
  decodeTableWord 8 0xC7 = some (.btnstate false 7#4) ∧ decodeTableWord 8 0xF0 = some (.monstart 0#4) ∧
  decodeTableWord 8 0xE7 = some (.monstop 7#4) ∧
  decodeTableWord 24 0xA00900 = some (.busRd 0x20#7 0x09#8 0x00#8) ∧
  decodeTableWord 24 0xFF0900 = some (.busRd 0x7F#7 0x09#8 0x00#8) ∧
  decodeTableWord 24 0x2006C0 = some (.busWr 0x20#7 0x06#8 0xC0#8) ∧
  decodeTableWord 24 0x7F0A3F = some (.busWr 0x7F#7 0x0A#8 0x3F#8) ∧
  decode .openReq8 [0x01#8] = .ok (.busOpen 0x01#8)

/-- Decoding the encoding of any instruction, at the port of its format, gives the instruction back, with every operand
and every ignored field at every value (R76, R111, R112, R117). -/
def Obligations.EncodedInstructionsDecodeBack : Prop :=
  ∀ i : Instr, decode i.format (encode i) = .ok i

/-- Whatever bytes decode to an instruction are that instruction's encoding: no two words of a format mean the same
(R111, R112, R119). -/
def Obligations.DecodedBytesEncodeBack : Prop :=
  ∀ (fmt : Format) (bytes : List Byte) (i : Instr),
    decode fmt bytes = .ok i → i.format = fmt ∧ encode i = bytes

/-- The decoder is total on words: it refuses exactly the strings of another length than the format's (R119, R120). -/
def Obligations.OnlyWrongLengthsAreRefused : Prop :=
  ∀ (fmt : Format) (bytes : List Byte),
    (bytes.length = fmt.bytes → ∃ i, decode fmt bytes = .ok i) ∧
    (bytes.length ≠ fmt.bytes → decode fmt bytes = .error (.wrongLength fmt bytes.length))

/-- R119: every one of the 256 command words decodes to exactly one of the eight commands, and the counts of legal and
illegal words per command. -/
def Obligations.CommandWordCounts : Prop :=
  let words : List Instr := (List.range 256).map fun n => decodeCommand (BitVec.ofNat 8 n)
  let count (f : Instr → Bool) : Nat := words.countP f
  count (fun i => match i with | .init _ => true | _ => false) = 32 ∧
  count (fun i => match i with | .setled _ p => isLed p | _ => false) = 12 ∧
  count (fun i => match i with | .setled _ p => !isLed p | _ => false) = 20 ∧
  count (fun i => match i with | .setleds _ _ => true | _ => false) = 32 ∧
  count (fun i => match i with | .getled _ p => isLed p | _ => false) = 12 ∧
  count (fun i => match i with | .getled _ p => !isLed p | _ => false) = 20 ∧
  count (fun i => match i with | .pollbtn _ => true | _ => false) = 32 ∧
  count (fun i => match i with | .clrint _ => true | _ => false) = 32 ∧
  count (fun i => match i with | .btnstate _ p => isSw p | _ => false) = 4 ∧
  count (fun i => match i with | .btnstate _ p => !isSw p | _ => false) = 28 ∧
  count (fun i => match i with | .monstart _ => true | _ => false) = 16 ∧
  count (fun i => match i with | .monstop _ => true | _ => false) = 16

/-- R125: every pseudo-operation assembles to its expansion, on every operand; and the example lines of R124 assemble
to the words it gives them. -/
def Obligations.PseudoOperationsExpand : Prop :=
  (∀ p : AsmArg, assemble .LEDON [p] = assemble .SETLED [p, .on] ∧ assemble .LEDOFF [p] = assemble .SETLED [p, .off]) ∧
  assemble .ALLON [] = assemble .SETLEDS [.on] ∧ assemble .ALLOFF [] = assemble .SETLEDS [.off] ∧
  assemble .MONSTART [] = assemble .MON [.start] ∧ assemble .MONSTOP [] = assemble .MON [.stop] ∧
  (assemble .INIT []).map encode = some [0x00#8] ∧
  (assemble .SETLED [.led 0, .on]).map encode = some [0x30#8] ∧
  (assemble .SETLED [.led 2, .off]).map encode = some [0x22#8] ∧
  (assemble .SETLEDS [.on]).map encode = some [0x50#8] ∧ (assemble .SETLEDS [.off]).map encode = some [0x40#8] ∧
  (assemble .GETLED [.led 5]).map encode = some [0x65#8] ∧ (assemble .POLLBTN []).map encode = some [0x80#8] ∧
  (assemble .CLRINT []).map encode = some [0xA0#8] ∧ (assemble .BTNSTATE [.sw 0]).map encode = some [0xC6#8] ∧
  (assemble .BTNSTATE [.sw 1]).map encode = some [0xC7#8] ∧ (assemble .MON [.start]).map encode = some [0xF0#8] ∧
  (assemble .MON [.stop]).map encode = some [0xE0#8] ∧ (assemble .GETLED [.raw 9#4]).map encode = some [0x69#8] ∧
  (assemble .SETLED [.sw 0, .on]).map encode = some [0x36#8]

/-- The ignored fields of a command change nothing but the word that CMDR shows: of two words that differ in ignored
bits only, accepted alike, the second gives the same state with its own word in CMDR (R117; a legal pin, so that no word
is recorded in ERR_INFO; that the ignored bits are kept at all is read from R21 and R110, log 18). -/
def Obligations.IgnoredFieldsShowInCmdrOnly : Prop :=
  ∀ (s : State),
    (∀ x y : BitVec 5, s.seq = .sReset → ∃ t, exec (.init x) s = .next t ∧
      exec (.init y) s = .next { t with cmdr := wordOpX 0b000#3 y }) ∧
    (s.seq = .sReady →
      (∀ (on : Bool) (x y : BitVec 4), ∃ t, exec (.setleds on x) s = .next t ∧
        exec (.setleds on y) s = .next { t with cmdr := wordOpSP 0b010#3 on y }) ∧
      (∀ (x y : Bool) (p : BitVec 4), isLed p = true → ∃ t, exec (.getled x p) s = .next t ∧
        exec (.getled y p) s = .next { t with cmdr := wordOpSP 0b011#3 y p }) ∧
      (∀ x y : BitVec 5, ∃ t, exec (.pollbtn x) s = .next t ∧
        exec (.pollbtn y) s = .next { t with cmdr := wordOpX 0b100#3 y }) ∧
      (∀ x y : BitVec 5, ∃ t, exec (.clrint x) s = .next t ∧
        exec (.clrint y) s = .next { t with cmdr := wordOpX 0b101#3 y }) ∧
      (∀ (x y : Bool) (p : BitVec 4), isSw p = true → ∃ t, exec (.btnstate x p) s = .next t ∧
        exec (.btnstate y p) s = .next { t with cmdr := wordOpSP 0b110#3 y p }) ∧
      (∀ x y : BitVec 4, ∃ t, exec (.monstart x) s = .next t ∧
        exec (.monstart y) s = .next { t with cmdr := wordOpSP 0b111#3 true y }) ∧
      (∀ x y : BitVec 4, ∃ t, exec (.monstop x) s = .next t ∧
        exec (.monstop y) s = .next { t with cmdr := wordOpSP 0b111#3 false y }))

/-! ### Bit functions and operands (40_bitops.md, 30_encoding.md R114 to R116) -/

/-- R140: `setBit` writes 0 for ON and 1 for OFF at its position and keeps every other bit; it is idempotent, and calls
on different positions commute. -/
def Obligations.SetBitIsActiveLow : Prop :=
  ∀ (b : Byte) (pos : Nat) (on : Bool), pos < 8 →
    getBit (setBit b pos on) pos = !on ∧
    (∀ q, q < 8 → q ≠ pos → getBit (setBit b pos on) q = getBit b q) ∧
    (getBit b pos = !on → setBit b pos on = b) ∧
    setBit (setBit b pos on) pos on = setBit b pos on ∧
    (∀ (q : Nat) (on' : Bool), q < 8 → q ≠ pos →
      setBit (setBit b pos on) q on' = setBit (setBit b q on') pos on)

/-- R144: `ledState` is 1 - `getBit`, and it reads back what `setBit` wrote, at that position and at no other. -/
def Obligations.LedStateInvertsSetBit : Prop :=
  ∀ (b : Byte) (pos : Nat) (on : Bool), pos < 8 →
    ledState b pos = !getBit b pos ∧ ledState (setBit b pos on) pos = on ∧
    (∀ q, q < 8 → q ≠ pos → ledState (setBit b pos on) q = ledState b q) ∧
    ledState 0x3E#8 0 = true ∧ ledState 0x3E#8 1 = false

/-- R145: `decodeButton` is SW1 if bit 6 is set, else SW2 if bit 7 is set, else none; the other bits are not looked
at; its codes are those of R122. -/
def Obligations.ButtonDecodePrefersSw1 : Prop :=
  ∀ f : Byte,
    (f.getLsbD 6 = true → (decodeButton f).code = 0b01#2) ∧
    (f.getLsbD 6 = false → f.getLsbD 7 = true → (decodeButton f).code = 0b10#2) ∧
    (f.getLsbD 6 = false → f.getLsbD 7 = false → (decodeButton f).code = 0b00#2) ∧
    decodeButton f = decodeButton (f &&& 0xC0#8)

/-- R115, R116: the pin classes, and the masks `1 << p` of the eight pins with the group masks LEDS and BTNS. -/
def Obligations.PinClassesAndMasks : Prop :=
  (∀ p : BitVec 4, (isLed p = true ↔ p.toNat ≤ 5) ∧ (isSw p = true ↔ p.toNat = 6 ∨ p.toNat = 7)) ∧
  ([0#4, 1#4, 2#4, 3#4, 4#4, 5#4, 6#4, 7#4].map pinMask =
    [0x01#8, 0x02#8, 0x04#8, 0x08#8, 0x10#8, 0x20#8, 0x40#8, 0x80#8]) ∧
  (∀ p : BitVec 4, p.toNat < 8 → ∀ i, i < 8 → ((pinMask p).getLsbD i = true ↔ i = p.toNat)) ∧
  ledsMask = 0x3F#8 ∧ btnsMask = 0xC0#8

/-! ### Reset (10_state.md R50, 70_reset_and_hazards.md R290 to R292) -/

/-- R50: the table of reset values, with the codes of the enumerations; the codes of the tables of R23, R27, R29 and
R122; and in every state the status flags as functions of SEQ: READY, HALTED, INITIALISING from S_OPEN to S_HOLD_OFF,
BUSY (R32). -/
def Obligations.ResetStateIsTheTable : Prop :=
  (let s := State.reset
   s.seq.code = 0#5 ∧ s.mon.code = 0#3 ∧ s.monEn = false ∧ s.lock.code = 0#2 ∧ s.handleV = false ∧
   s.handleBus = 0#8 ∧ s.cmdr = 0x00#8 ∧ s.tmp = 0x00#8 ∧ s.rsp = 0x00#8 ∧ s.evt.code = 0b00#2 ∧
   s.err.code = 0#3 ∧ s.errInfo = 0x00#8 ∧ s.dbt = 0#16 ∧ s.ht = 0#16 ∧
   s.trace = [] ∧ s.responses = [] ∧ s.events = []) ∧
  ([Seq.sReset, .sOpen, .sProbe, .sPullup, .sDir, .sLedsOff, .sInten, .sDefval, .sIntcon, .sIntclr, .sFlashOn,
      .sHoldOn, .sFlashOff, .sHoldOff, .sReady, .sExec1, .sExec2, .sHalt].map fun q => q.code.toNat) =
    [0, 1, 2, 3, 4, 5, 6, 7, 8, 9, 10, 11, 12, 13, 14, 15, 16, 31] ∧
  ([Mon.mOff, .mIdle, .mDebounce, .mClear, .mDispatch].map fun m => m.code.toNat) = [0, 1, 2, 3, 4] ∧
  ([Lock.free, .host, .mon].map fun l => l.code.toNat) = [0, 1, 2] ∧
  ([Event.none, .sw1, .sw2].map fun e => e.code.toNat) = [0, 1, 2] ∧
  ∀ s : State,
    (s.ready = true ↔ s.seq = .sReady) ∧ (s.halted = true ↔ s.seq = .sHalt) ∧
    (s.initialising = true ↔
      s.seq ∈ [Seq.sOpen, .sProbe, .sPullup, .sDir, .sLedsOff, .sInten, .sDefval, .sIntcon, .sIntclr, .sFlashOn,
        .sHoldOn, .sFlashOff, .sHoldOff]) ∧
    (s.busy = true ↔ s.seq = .sExec1 ∨ s.seq = .sExec2)

/-- R290, R292: a reset step, in any state, sets every register that R50 gives a value to that value, empties the
trace, the responses and the events, and leaves the expander as it was: every register and every pin level. -/
def Obligations.ResetMoveKeepsTheExpander : Prop :=
  ∀ s : State, ∃ t, runMove .reset s = .next t ∧
    t.seq = .sReset ∧ t.mon = .mOff ∧ t.monEn = false ∧ t.lock = .free ∧ t.handleV = false ∧ t.handleBus = 0#8 ∧
    t.cmdr = 0x00#8 ∧ t.tmp = 0x00#8 ∧ t.rsp = 0x00#8 ∧ t.evt = .none ∧ t.err = .none ∧ t.errInfo = 0x00#8 ∧
    t.dbt = 0#16 ∧ t.ht = 0#16 ∧ t.trace = [] ∧ t.responses = [] ∧ t.events = [] ∧
    (∀ a, Memory.read t.mem a = Memory.read s.mem a) ∧ t.pin = s.pin ∧ t.undriven = s.undriven ∧ t.levels = s.levels

/-- The state after reset is legal (R52), INIT has established nothing there, no open call has been issued, and every
offered word but an INIT leaves it (R291). -/
def Obligations.ResetStateIsLegal : Prop :=
  Legal State.reset ∧ SetUp State.reset ∧ OpenOnce State.reset ∧
  ∀ w : Byte, opField w ≠ 0b000#3 → runMove (.offer w) State.reset = .next State.reset

/-! ### Invariants of every step (10_state.md R52) -/

/-- R52 with the memory invariant and R21's: a step from a legal state gives a legal state, whatever the moves. So does
what INIT establishes, each register from its step on (R295): no later step of anybody takes it back. That the expander holds
what it was written is P1 (R84), which the model's expander keeps whatever a read is answered with (log 14). -/
def Obligations.EveryStepKeepsLegal : Prop :=
  ∀ s t : State, Legal s → step s = .next t → Legal t ∧ (SetUp s → SetUp t)

/-- No step of the LDC or of its environment faults or is refused, in any state: errors are states (S_HALT), a step that
is not enabled holds (log 4), and the agents issue only requests that the expander's map gives a meaning (R10, R81,
R262). -/
def Obligations.EveryStepCompletes : Prop :=
  ∀ s : State, ∃ t, step s = .next t

/-- R52 item 8, R31: CFG_BUS and CFG_DEV do not change while SEQ is not S_RESET, but by a reset. -/
def Obligations.PeripheralAddressIsImmutable : Prop :=
  ∀ s t : State, step s = .next t → s.seq ≠ .sReset → t.seq ≠ .sReset →
    t.cfgBus = s.cfgBus ∧ t.cfgDev = s.cfgDev

/-- R81, R82: a step is a reset, which empties the trace, or appends at most one call, and that call reads INTF or GPIO,
writes 0xC0 to GPPU, IODIR, GPINTEN, DEFVAL or INTCON, writes OLAT, or opens the bus CFG_BUS. -/
def Obligations.OnlyMappedCallsAreIssued : Prop :=
  ∀ s t : State, step s = .next t →
    (t.trace = [] ∧ t.seq = .sReset) ∨ t.trace = s.trace ∨ ∃ c, t.trace = s.trace ++ [c] ∧
      ((∃ v, c = .rd 0x07#8 v) ∨ (∃ v, c = .rd 0x09#8 v) ∨ (∃ v ok, c = .wr 0x0A#8 v ok) ∨
       (∃ reg ok, reg ∈ [0x06#8, 0x00#8, 0x02#8, 0x03#8, 0x04#8] ∧ c = .wr reg 0xC0#8 ok) ∨
       ∃ ok, c = .openBus s.cfgBus ok)

/-- R75: `open` is issued exactly once per reset-to-reset lifetime: from a legal state no step breaks 'none before the
step of S_OPEN, one after it'. -/
def Obligations.OpenIsIssuedOnce : Prop :=
  ∀ s t : State, Legal s → OpenOnce s → step s = .next t → OpenOnce t

/-! ### Commands: acceptance (30_encoding.md R127, 41_init.md R151, 42_led.md R183, 43_button.md R202) -/

/-- R151: INIT accepted in S_RESET: CMDR, CFG_BUS, CFG_DEV and SEQ are written, nothing else. -/
def Obligations.InitIsAccepted : Prop :=
  ∀ (x : BitVec 5) (s : State), s.seq = .sReset →
    exec (.init x) s =
      .next { s with
        cmdr := wordOpX 0b000#3 x, cfgBus := Config.busNum, cfgDev := Config.devAddr, seq := .sOpen }

/-- R127: in S_RESET only INIT is accepted, in S_READY every command except INIT, in every other state none. An accepted
word is in CMDR afterwards; an offered word that is not accepted has no effect at all. -/
def Obligations.UnacceptedWordsHaveNoEffect : Prop :=
  ∀ (w : Byte) (s : State),
    let isInit : Prop := opField w = 0b000#3
    let accepted : Prop := (s.seq = .sReset ∧ isInit) ∨ (s.seq = .sReady ∧ ¬isInit)
    (accepted → ∃ t, runMove (.offer w) s = .next t ∧ t.cmdr = w) ∧
    (¬accepted → runMove (.offer w) s = .next s)

/-- R183, R202, R254, R255, R258: SETLED or GETLED of a pin that is no LED, BTNSTATE of a pin that is no button, accepted
in S_READY: fatal-error entry with the whole command word, CMDR written, nothing else; in particular no transport call
and no response. -/
def Obligations.InvalidPinsHaltAtAcceptance : Prop :=
  ∀ (b : Bool) (p : BitVec 4) (s : State), s.seq = .sReady →
    let halted (e : ErrCode) (w : Byte) : State :=
      { s with
        cmdr := w, err := e, errInfo := w, seq := .sHalt, mon := .mOff, monEn := false, lock := .free,
        handleV := false, dbt := 0#16, ht := 0#16 }
    (5 < p.toNat →
      exec (.setled b p) s = .next (halted .invalidPinError (wordOpSP 0b001#3 b p)) ∧
      exec (.getled b p) s = .next (halted .invalidPinError (wordOpSP 0b011#3 b p))) ∧
    (p.toNat ≠ 6 ∧ p.toNat ≠ 7 →
      exec (.btnstate b p) s = .next (halted .invalidButtonError (wordOpSP 0b110#3 b p)))

/-! ### Commands: the whole of each (42_led.md, 43_button.md, 44_monitor.md R220) -/

/-- R180: SETLED with an LED pin. Acceptance; the GPIO read into TMP, which takes the lock and clears INTF; the OLAT write
of `setBit(TMP, p, s)`, which frees it; the response 0x00. Everything else, each step, is unchanged. -/
def Obligations.SetledCompletes : Prop :=
  ∀ (on : Bool) (p : BitVec 4) (a b : Answer) (g : Byte) (s : State),
    s.seq = .sReady → p.toNat ≤ 5 → s.lock = .free → s.handleV = true →
    answeredByte a .gpio s = some g → NoTransportError b →
    let v := setBit g p.toNat on
    let t : State := { s with cmdr := wordOpSP 0b001#3 on p, seq := .sExec1 }
    let u : State :=
      { t with
        trace := s.trace ++ [.rd 0x09#8 (some g)], mem := Memory.write s.mem 0x07 0x00#8, tmp := g, rdata := g,
        lock := .host, seq := .sExec2, turn := .sequencer, ans := a }
    let w : State :=
      { u with
        trace := s.trace ++ [.rd 0x09#8 (some g), .wr 0x0A#8 v true], mem := Memory.write u.mem 0x0A v,
        lock := .free, seq := .sReady, rsp := 0x00#8, responses := s.responses ++ [0x00#8], ans := b }
    exec (.setled on p) s = .next t ∧ runMove (.seq a) t = .next u ∧ runMove (.seq b) u = .next w

/-- R181: SETLEDS: acceptance; one OLAT write of 0x00 (ON) or 0x3F (OFF); the response 0x00. No read, so INTF keeps its
bits. -/
def Obligations.SetledsCompletes : Prop :=
  ∀ (on : Bool) (x : BitVec 4) (a : Answer) (s : State),
    s.seq = .sReady → s.lock = .free → s.handleV = true → NoTransportError a →
    let v : Byte := if on then 0x00#8 else 0x3F#8
    let t : State := { s with cmdr := wordOpSP 0b010#3 on x, seq := .sExec1 }
    let u : State :=
      { t with
        trace := s.trace ++ [.wr 0x0A#8 v true], mem := Memory.write s.mem 0x0A v, turn := .sequencer, ans := a,
        rsp := 0x00#8, responses := s.responses ++ [0x00#8], seq := .sReady }
    exec (.setleds on x) s = .next t ∧ runMove (.seq a) t = .next u

/-- R182: GETLED with an LED pin: acceptance; one GPIO read, which clears INTF; the response 0x01 if the bit read is 0
(ON), 0x00 if it is 1. -/
def Obligations.GetledCompletes : Prop :=
  ∀ (x : Bool) (p : BitVec 4) (a : Answer) (g : Byte) (s : State),
    s.seq = .sReady → p.toNat ≤ 5 → s.lock = .free → s.handleV = true → answeredByte a .gpio s = some g →
    let v : Byte := if g.getLsbD p.toNat then 0x00#8 else 0x01#8
    let t : State := { s with cmdr := wordOpSP 0b011#3 x p, seq := .sExec1 }
    let u : State :=
      { t with
        trace := s.trace ++ [.rd 0x09#8 (some g)], mem := Memory.write s.mem 0x07 0x00#8, rdata := g,
        turn := .sequencer, ans := a, rsp := v, responses := s.responses ++ [v], seq := .sReady }
    exec (.getled x p) s = .next t ∧ runMove (.seq a) t = .next u

/-- R200, R205, R206: POLLBTN: acceptance; one INTF read, which changes nothing in the expander; the response is the
event code: 0x01 if bit 6 is set, else 0x02 if bit 7 is set, else 0x00. -/
def Obligations.PollbtnCompletes : Prop :=
  ∀ (x : BitVec 5) (a : Answer) (f : Byte) (s : State),
    s.seq = .sReady → s.lock = .free → s.handleV = true → answeredByte a .intf s = some f →
    let v : Byte := if f.getLsbD 6 then 0x01#8 else if f.getLsbD 7 then 0x02#8 else 0x00#8
    let t : State := { s with cmdr := wordOpX 0b100#3 x, seq := .sExec1 }
    let u : State :=
      { t with
        trace := s.trace ++ [.rd 0x07#8 (some f)], rdata := f, turn := .sequencer, ans := a, rsp := v,
        responses := s.responses ++ [v], seq := .sReady }
    exec (.pollbtn x) s = .next t ∧ runMove (.seq a) t = .next u

/-- R201: CLRINT: acceptance; one GPIO read, which clears INTF, its byte discarded; the response 0x00. -/
def Obligations.ClrintCompletes : Prop :=
  ∀ (x : BitVec 5) (a : Answer) (g : Byte) (s : State),
    s.seq = .sReady → s.lock = .free → s.handleV = true → answeredByte a .gpio s = some g →
    let t : State := { s with cmdr := wordOpX 0b101#3 x, seq := .sExec1 }
    let u : State :=
      { t with
        trace := s.trace ++ [.rd 0x09#8 (some g)], mem := Memory.write s.mem 0x07 0x00#8, rdata := g,
        turn := .sequencer, ans := a, rsp := 0x00#8, responses := s.responses ++ [0x00#8], seq := .sReady }
    exec (.clrint x) s = .next t ∧ runMove (.seq a) t = .next u

/-- R202: BTNSTATE with a button pin: acceptance; one INTF read, which changes nothing in the expander; the response is
that pin's flag, without priority. -/
def Obligations.BtnstateCompletes : Prop :=
  ∀ (x : Bool) (p : BitVec 4) (a : Answer) (f : Byte) (s : State),
    s.seq = .sReady → p.toNat = 6 ∨ p.toNat = 7 → s.lock = .free → s.handleV = true →
    answeredByte a .intf s = some f →
    let v : Byte := if f.getLsbD p.toNat then 0x01#8 else 0x00#8
    let t : State := { s with cmdr := wordOpSP 0b110#3 x p, seq := .sExec1 }
    let u : State :=
      { t with
        trace := s.trace ++ [.rd 0x07#8 (some f)], rdata := f, turn := .sequencer, ans := a, rsp := v,
        responses := s.responses ++ [v], seq := .sReady }
    exec (.btnstate x p) s = .next t ∧ runMove (.seq a) t = .next u

/-- R220: MON START and MON STOP complete in their acceptance step: MON_EN, from M_OFF also MON on a start, the response
0x00, SEQ stays S_READY; nothing else, no transport call, no error. -/
def Obligations.MonitorCommandsComplete : Prop :=
  ∀ (x : BitVec 4) (s : State), s.seq = .sReady →
    exec (.monstart x) s =
      .next { s with
        cmdr := wordOpSP 0b111#3 true x, monEn := true, mon := if s.mon = .mOff then .mIdle else s.mon,
        rsp := 0x00#8, responses := s.responses ++ [0x00#8] } ∧
    exec (.monstop x) s =
      .next { s with
        cmdr := wordOpSP 0b111#3 false x, monEn := false, rsp := 0x00#8, responses := s.responses ++ [0x00#8] }

/-! ### INIT (41_init.md) -/

/-- R152 to R161, R163: each transaction step of INIT, answered ok, from any state with the handle open and the lock
free: its one call, its effect in the expander, the timer load, the next state in strict order; nothing else. That a write
of GPPU, IODIR, GPINTEN, DEFVAL or INTCON changes no byte but its register's under any ok answer is the model's choice (log
14): R93 says of the reference peripheral that a write latches no interrupt, R83 and R301 let a peripheral latch one. -/
def Obligations.InitStepsInStrictOrder : Prop :=
  ∀ (a : Answer) (s : State), NoTransportError a →
    let opened : State :=
      { s with
        trace := s.trace ++ [.openBus s.cfgBus true], handleV := true, handleBus := s.cfgBus, turn := .sequencer,
        ans := a, seq := .sProbe }
    let wrote (reg v : Byte) (next : Seq) (ht : Ticks) : State :=
      { s with
        trace := s.trace ++ [.wr reg v true], mem := Memory.write s.mem reg.toNat v, turn := .sequencer, ans := a,
        seq := next, ht := ht }
    let didRead (g : Byte) (next : Seq) : State :=
      { s with
        trace := s.trace ++ [.rd 0x09#8 (some g)], mem := Memory.write s.mem 0x07 0x00#8, rdata := g,
        turn := .sequencer, ans := a, seq := next }
    (s.seq = .sOpen → runMove (.seq a) s = .next opened) ∧
    (s.handleV = true → s.lock = .free →
      (s.seq = .sProbe → ∃ g, answeredByte a .gpio s = some g ∧ runMove (.seq a) s = .next (didRead g .sPullup)) ∧
      (s.seq = .sPullup → runMove (.seq a) s = .next (wrote 0x06#8 0xC0#8 .sDir s.ht)) ∧
      (s.seq = .sDir → runMove (.seq a) s = .next (wrote 0x00#8 0xC0#8 .sLedsOff s.ht)) ∧
      (s.seq = .sLedsOff → runMove (.seq a) s = .next (wrote 0x0A#8 0x3F#8 .sInten s.ht)) ∧
      (s.seq = .sInten → runMove (.seq a) s = .next (wrote 0x02#8 0xC0#8 .sDefval s.ht)) ∧
      (s.seq = .sDefval → runMove (.seq a) s = .next (wrote 0x03#8 0xC0#8 .sIntcon s.ht)) ∧
      (s.seq = .sIntcon → runMove (.seq a) s = .next (wrote 0x04#8 0xC0#8 .sIntclr s.ht)) ∧
      (s.seq = .sIntclr → ∃ g, answeredByte a .gpio s = some g ∧ runMove (.seq a) s = .next (didRead g .sFlashOn)) ∧
      (s.seq = .sFlashOn → runMove (.seq a) s = .next (wrote 0x0A#8 0x00#8 .sHoldOn Config.flashHoldMs)) ∧
      (s.seq = .sFlashOff → runMove (.seq a) s = .next (wrote 0x0A#8 0x3F#8 .sHoldOff Config.flashHoldMs)))

/-- R162, R164: a hold of the self-test flash takes exactly as many ticks as HT holds: after fewer the exit is not
enabled, after that many it is; S_HOLD_ON goes to S_FLASH_OFF, S_HOLD_OFF responds 0x00 and is ready. -/
def Obligations.FlashHoldsLastTheirTicks : Prop :=
  ∀ (n : Nat) (a : Answer) (s : State), (s.seq = .sHoldOn ∨ s.seq = .sHoldOff) → n ≤ s.ht.toNat →
    ∃ t, runMoves (List.replicate n .tick) s = .next t ∧ t.seq = s.seq ∧ t.ht.toNat = s.ht.toNat - n ∧
      t.trace = s.trace ∧
      (n < s.ht.toNat → runMove (.seq a) t = .next t) ∧
      (n = s.ht.toNat → s.seq = .sHoldOn → runMove (.seq a) t = .next { t with seq := .sFlashOff }) ∧
      (n = s.ht.toNat → s.seq = .sHoldOff → runMove (.seq a) t =
        .next { t with seq := .sReady, rsp := 0x00#8, responses := s.responses ++ [0x00#8] })

/-- R168, R165, S4: INIT from a legal state in S_RESET, every call answered ok and the ticks of the two holds given:
the complete trace in order, the response 0x00, the sequencer ready, the expander configured, every LED latch bit off
whatever the expander held before, no flag set, the monitor off. And what it establishes holds ever after (R295): a state
ready after an INIT, whatever has happened since but a reset, is legal, with the handle open on the bus BUS_NUM, the
device DEV_ADDR and the expander configured. That the expander holds what it was written is P1 (R84), which the model's
expander keeps whatever a read is answered with (log 14). -/
def Obligations.InitEstablishesItsContract : Prop :=
  (∀ (x : BitVec 5) (a : Fin 11 → Answer) (b c : Answer) (s : State),
    Legal s → s.seq = .sReset → (∀ k, NoTransportError (a k)) →
    let hold : List Move := List.replicate Config.flashHoldMs.toNat .tick
    let moves : List Move :=
      [.seq (a 0), .seq (a 1), .seq (a 2), .seq (a 3), .seq (a 4), .seq (a 5), .seq (a 6), .seq (a 7), .seq (a 8),
        .seq (a 9)] ++ hold ++ [.seq b, .seq (a 10)] ++ hold ++ [.seq c]
    ∃ t u g h, exec (.init x) s = .next t ∧ runMoves moves t = .next u ∧
      u.trace = s.trace ++
        [.openBus Config.busNum true, .rd 0x09#8 (some g), .wr 0x06#8 0xC0#8 true, .wr 0x00#8 0xC0#8 true,
          .wr 0x0A#8 0x3F#8 true, .wr 0x02#8 0xC0#8 true, .wr 0x03#8 0xC0#8 true, .wr 0x04#8 0xC0#8 true,
          .rd 0x09#8 (some h), .wr 0x0A#8 0x00#8 true, .wr 0x0A#8 0x3F#8 true] ∧
      u.responses = s.responses ++ [0x00#8] ∧ u.rsp = 0x00#8 ∧ u.seq = .sReady ∧ u.mon = .mOff ∧ u.lock = .free ∧
      u.handleV = true ∧ u.handleBus = Config.busNum ∧ u.cfgBus = Config.busNum ∧ u.cfgDev = Config.devAddr ∧
      u.err = .none ∧ u.ht = 0#16 ∧ u.events = s.events ∧
      u.reg .iodir = 0xC0#8 ∧ u.reg .gppu = 0xC0#8 ∧ u.reg .gpinten = 0xC0#8 ∧ u.reg .defval = 0xC0#8 ∧
      u.reg .intcon = 0xC0#8 ∧ u.reg .olat = 0x3F#8 ∧ u.reg .intf = 0x00#8 ∧
      (CleanReset s → Inited u)) ∧
  ∀ s : State, Inited s →
    Legal s ∧ s.handleV = true ∧ s.handleBus = Config.busNum ∧ s.cfgBus = Config.busNum ∧ s.cfgDev = Config.devAddr ∧
    Configured s

/-! ### LED properties (42_led.md R185, 20_memory.md R101) -/

/-- R185, S1 and S2, under its premises: on a configured expander, without transport errors and with the latch read back,
SETLED `p`, `s` followed by GETLED `q`, for LED pins p and q, answers `s` for q = p, and for every other q the state that
q's latch bit had before. -/
def Obligations.LedRoundTripAndIsolation : Prop :=
  ∀ (on x : Bool) (p q : BitVec 4) (a b c : Answer) (s : State),
    let moves : List Move :=
      [.offer (wordOpSP 0b001#3 on p), .seq a, .seq b, .offer (wordOpSP 0b011#3 x q), .seq c]
    Legal s → s.seq = .sReady → Configured s → p.toNat ≤ 5 → q.toNat ≤ 5 →
    NoTransportErrorIn moves → Readback moves s →
    ∃ t, runMoves moves s = .next t ∧ t.seq = .sReady ∧ t.err = .none ∧
      (q = p → t.responses = s.responses ++ [0x00#8, if on then 0x01#8 else 0x00#8]) ∧
      (q ≠ p → t.responses =
        s.responses ++ [0x00#8, if (s.reg .olat).getLsbD q.toNat then 0x00#8 else 0x01#8])

/-- R185, S3, under the same premises: SETLEDS ON followed by GETLED of any LED answers ON, SETLEDS OFF followed by GETLED
of any LED answers OFF. -/
def Obligations.BulkLedsReadBack : Prop :=
  ∀ (on x : Bool) (y q : BitVec 4) (a b : Answer) (s : State),
    let moves : List Move :=
      [.offer (wordOpSP 0b010#3 on y), .seq a, .offer (wordOpSP 0b011#3 x q), .seq b]
    Legal s → s.seq = .sReady → Configured s → q.toNat ≤ 5 → NoTransportErrorIn moves → Readback moves s →
    ∃ t, runMoves moves s = .next t ∧
      t.seq = .sReady ∧ t.err = .none ∧ t.responses = s.responses ++ [0x00#8, if on then 0x01#8 else 0x00#8]

/-- R101: while LOCK = HOST no step but the write of S_EXEC2 makes a transport call: from a legal state with LOCK = HOST
every step leaves the trace, or is a reset, or appends the OLAT write of `setBit(TMP, p, s)`. So the GPIO read of a
SETLED is immediately followed by its write. -/
def Obligations.SetledPairIsNeverSplit : Prop :=
  ∀ s t : State, Legal s → s.lock = .host → step s = .next t →
    ∃ on p, decodeCommand s.cmdr = .setled on p ∧ p.toNat ≤ 5 ∧
      ((t.trace = s.trace ∧ t.lock = .host ∧ t.tmp = s.tmp ∧ t.cmdr = s.cmdr) ∨
       (t.trace = [] ∧ t.seq = .sReset) ∨
       ∃ ok, t.trace = s.trace ++ [.wr 0x0A#8 (setBit s.tmp p.toNat on) ok] ∧ t.lock = .free ∧
         (if ok then t.seq = .sReady ∧ t.responses = s.responses ++ [0x00#8]
          else t.seq = .sHalt ∧ t.responses = s.responses))

/-! ### Transport calls (20_memory.md R75 to R78, R93 to R95) -/

/-- R76, R77, R83, R94, R95: BUS.RD of INTF or GPIO at the device CFG_DEV with the handle open, answered ok: the trace
entry and the byte; a GPIO read also clears INTF; nothing else changes. -/
def Obligations.BusRdCompletes : Prop :=
  ∀ (x v : Byte) (s : State), s.handleV = true →
    (answeredByte s.ans .intf s = some v →
      exec (.busRd s.cfgDev 0x07#8 x) s = .next { s with trace := s.trace ++ [.rd 0x07#8 (some v)], rdata := v }) ∧
    (answeredByte s.ans .gpio s = some v →
      exec (.busRd s.cfgDev 0x09#8 x) s =
        .next { s with
          trace := s.trace ++ [.rd 0x09#8 (some v)], rdata := v, mem := Memory.write s.mem 0x07 0x00#8 })

/-- R76, R84, R93: BUS.WR of one of the six written registers at the device CFG_DEV with the handle open, answered ok:
the trace entry, the byte is stored at the register's address, nothing else changes. That nothing else changes under any ok
answer is the model's choice (log 14): R93 says of the reference peripheral that a write latches no interrupt, while R83 lets
a write of a configuration register latch one. -/
def Obligations.BusWrCompletes : Prop :=
  ∀ (reg v : Byte) (s : State), s.handleV = true → NoTransportError s.ans →
    reg ∈ [0x00#8, 0x02#8, 0x03#8, 0x04#8, 0x06#8, 0x0A#8] →
    exec (.busWr s.cfgDev reg v) s =
      .next { s with trace := s.trace ++ [.wr reg v true], mem := Memory.write s.mem reg.toNat v }

/-- The frame of the two byte calls, for every answer: no pin level, no general register, no event, no response changes;
a BUS.RD leaves the expander as it is, but that a GPIO read answered with a byte clears INTF (R83; a failed read has no
effect in the expander, R263); a BUS.WR changes no byte but the addressed register's. Of a write answered ok that is the
model's choice (log 14): R93 says of the reference peripheral that a write latches no interrupt, while R83 lets a write of a
configuration register latch one. Of a write answered err the spec leaves open what it did to the peripheral (R263, U7);
that it touches no other register is the model's reading (log 10). -/
def Obligations.BusCallFrames : Prop :=
  ∀ (dev : DevAddr) (reg v : Byte) (s t : State),
    let kept : Prop :=
      t.pin = s.pin ∧ t.undriven = s.undriven ∧ t.cmdr = s.cmdr ∧ t.tmp = s.tmp ∧ t.rsp = s.rsp ∧ t.evt = s.evt ∧
      t.cfgBus = s.cfgBus ∧ t.cfgDev = s.cfgDev ∧ t.handleBus = s.handleBus ∧ t.responses = s.responses ∧
      t.events = s.events ∧ t.evtReady = s.evtReady ∧ t.inputs = s.inputs
    (exec (.busRd dev reg v) s = .next t →
      kept ∧ (t.mem = s.mem ∨
        (reg = 0x09#8 ∧ NoTransportError s.ans ∧ t.mem = Memory.write s.mem 0x07 0x00#8))) ∧
    (exec (.busWr dev reg v) s = .next t →
      kept ∧ t.rdata = s.rdata ∧ ∀ a : Nat, a ≠ reg.toNat → Memory.read t.mem a = Memory.read s.mem a)

/-- R75: the open call of S_OPEN, answered ok or err. -/
def Obligations.BusOpenCompletes : Prop :=
  ∀ (bus : Byte) (s : State), s.seq = .sOpen →
    (NoTransportError s.ans →
      exec (.busOpen bus) s =
        .next { s with trace := s.trace ++ [.openBus bus true], handleV := true, handleBus := bus }) ∧
    (s.ans = .err →
      exec (.busOpen bus) s =
        .next { s with
          trace := s.trace ++ [.openBus bus false], err := .busOpenError, errInfo := 0x00#8, seq := .sHalt,
          mon := .mOff, monEn := false, lock := .free, handleV := false, dbt := 0#16, ht := 0#16 })

/-- Where the transport requests hold or stop. Without the handle a request is not enabled (R76); `open` belongs to
S_OPEN (R75). With it, another device (91 N28), an address without a register (R81, U8), a read of a register that is
only written and a write of INTF or GPIO (R93, R95, U9) have no meaning in the spec, and the model refuses them by name:
the names are the model's choice (log 9). -/
def Obligations.UnissuedRequestsHoldOrStop : Prop :=
  ∀ (dev : DevAddr) (reg v : Byte) (s : State),
    (s.handleV = false → exec (.busRd dev reg v) s = .next s ∧ exec (.busWr dev reg v) s = .next s) ∧
    (s.seq ≠ .sOpen → exec (.busOpen v) s = .next s) ∧
    (s.handleV = true → dev ≠ s.cfgDev →
      exec (.busRd dev reg v) s = .refused (.otherDevice dev) ∧
      exec (.busWr dev reg v) s = .refused (.otherDevice dev)) ∧
    (s.handleV = true →
      (reg ∉ [0x00#8, 0x02#8, 0x03#8, 0x04#8, 0x06#8, 0x07#8, 0x09#8, 0x0A#8] →
        exec (.busRd s.cfgDev reg v) s = .refused (.noSuchRegister reg) ∧
        exec (.busWr s.cfgDev reg v) s = .refused (.noSuchRegister reg)) ∧
      (reg ∈ [0x00#8, 0x02#8, 0x03#8, 0x04#8, 0x06#8, 0x0A#8] →
        exec (.busRd s.cfgDev reg v) s = .refused (.readNotSpecified reg)) ∧
      (reg ∈ [0x07#8, 0x09#8] → exec (.busWr s.cfgDev reg v) s = .refused (.writeNotSpecified reg)))

/-! ### Steps and words -/

/-- A step runs the decoded instruction: an offered word is decoded and run; the granted agent's request, encoded and
decoded again, is run, and after an ok answer the agent goes on. The list of moves and the split between a request and
the rest of its step are the model's form (logs 4 and 8). -/
def Obligations.StepRunsTheDecodedInstruction : Prop :=
  ∀ (s : State) (rest : List Move),
    let r : State := { s with inputs := rest }
    (∀ (w : Byte) (i : Instr), s.inputs = .offer w :: rest → decode .cmd8 [w] = .ok i → step s = exec i r) ∧
    (∀ (a : Answer) (i : Instr), s.inputs = .seq a :: rest → seqRequest r = some i → seqMayCall r = true →
      decode i.format (encode i) = .ok i ∧
      step s = Result.andThen (exec i { r with turn := .sequencer, ans := a })
        fun t => if a = .err then t else seqFinish t) ∧
    (∀ (a : Answer) (i : Instr), s.inputs = .mon a :: rest → s.seq ≠ .sHalt → monRequest r = some i →
      monMayCall r = true →
      decode i.format (encode i) = .ok i ∧
      step s = Result.andThen (exec i { r with turn := .monitor, ans := a })
        fun t => if a = .err then t else monFinish t)

/-- A table word that is placed is what the next step runs: every command word, from any state, in the state of SEQ that
accepts it; and every well-formed read or write request, as the request of the sequencer's step. How a word is placed
is the model's choice (log 19). -/
def Obligations.PlacedWordsRunNext : Prop :=
  (∀ (s : State) (w : Byte),
    step (s.withFetchWord 8 w.toNat) = exec (decodeCommand w) { s with seq := acceptingSeq w }) ∧
  (∀ (s : State) (w : BitVec 24) (i : Instr), decodeTableWord 24 w.toNat = some i → i.WellFormed →
    let p := s.withFetchWord 24 w.toNat
    p.inputs = .seq .reference :: s.inputs ∧ seqRequest p = some i ∧
    step p = Result.andThen (exec i { p with inputs := s.inputs, turn := .sequencer, ans := .reference }) seqFinish)

/-! ### Fatal errors (60_exceptions.md) -/

/-- R262: fatal-error entry: what it writes, with the cause codes 1 to 5 of R251 at the port st_err, the information byte
at st_info and the flag HALTED (R8, R32 to R34), and that it keeps CMDR, TMP, RSP, EVT, CFG_BUS, CFG_DEV, HANDLE_BUS,
issues no transport call, gives no response and no event, and leaves the expander. -/
def Obligations.FatalErrorEntryWrites : Prop :=
  (∀ (e : ErrCode) (info : Byte) (s : State),
    let t := s.raise e info
    t.err = e ∧ t.errInfo = info ∧ t.seq = .sHalt ∧ t.mon = .mOff ∧ t.monEn = false ∧ t.lock = .free ∧
    t.handleV = false ∧ t.dbt = 0#16 ∧ t.ht = 0#16 ∧
    t.stErr = e.code ∧ t.stInfo = info ∧ t.halted = true ∧ t.ready = false ∧
    t.cmdr = s.cmdr ∧ t.tmp = s.tmp ∧ t.rsp = s.rsp ∧ t.evt = s.evt ∧ t.cfgBus = s.cfgBus ∧ t.cfgDev = s.cfgDev ∧
    t.handleBus = s.handleBus ∧ t.trace = s.trace ∧ t.responses = s.responses ∧ t.events = s.events ∧
    (∀ a, Memory.read t.mem a = Memory.read s.mem a) ∧ t.pin = s.pin ∧ t.undriven = s.undriven) ∧
  ∀ (info : Byte) (s : State),
    (s.raise .busOpenError info).stErr = 1#3 ∧ (s.raise .deviceNotFoundError info).stErr = 2#3 ∧
    (s.raise .invalidPinError info).stErr = 3#3 ∧ (s.raise .invalidButtonError info).stErr = 4#3 ∧
    (s.raise .transportError info).stErr = 5#3

/-- R266, R267: S_HALT has no successor but reset: every other move, in any halted state, leaves every register of the
LDC, the trace, the responses and the events; only the outside (expander, pins, consumer) may change. -/
def Obligations.HaltIsFinal : Prop :=
  ∀ (m : Move) (s : State), s.seq = .sHalt → m ≠ .reset →
    ∃ t, runMove m s = .next t ∧
      t = { s with mem := t.mem, pin := t.pin, undriven := t.undriven, evtReady := t.evtReady, draws := t.draws } ∧
      t.seq = .sHalt

/-- R78, R251 to R256, R258: a call of the sequencer answered err, in any state where its transaction step is enabled:
BusOpenError with 0x00 in S_OPEN, DeviceNotFoundError with the register address in S_PROBE, TransportError with the
register address elsewhere; halted, no response, the failed call last in the trace; a failed open or read leaves the
expander as it was (R263). -/
def Obligations.SequencerCallErrorsHalt : Prop :=
  ∀ (i : Instr) (s : State), seqRequest s = some i → seqMayCall s = true →
    ∃ t, runMove (.seq .err) s = .next t ∧ t.seq = .sHalt ∧ t.handleV = false ∧ t.lock = .free ∧ t.mon = .mOff ∧
      t.monEn = false ∧ t.dbt = 0#16 ∧ t.ht = 0#16 ∧ t.responses = s.responses ∧ t.events = s.events ∧
      t.rsp = s.rsp ∧ t.evt = s.evt ∧ t.cmdr = s.cmdr ∧ t.tmp = s.tmp ∧
      match i with
      | .busOpen bus => t.err = .busOpenError ∧ t.errInfo = 0x00#8 ∧ t.trace = s.trace ++ [.openBus bus false] ∧
        t.mem = s.mem
      | .busRd _ reg _ =>
        t.err = (if s.seq = .sProbe then .deviceNotFoundError else .transportError) ∧ t.errInfo = reg ∧
        t.trace = s.trace ++ [.rd reg none] ∧ t.mem = s.mem
      | .busWr _ reg v => t.err = .transportError ∧ t.errInfo = reg ∧ t.trace = s.trace ++ [.wr reg v false]
      | _ => False

/-- R234, R223, R227: a call of the monitor answered err halts the whole LDC, whatever the sequencer does: TransportError
with the address of the register, the detected event is not delivered, the command in progress gets no response, the
expander is as it was (R263). -/
def Obligations.MonitorCallErrorsHalt : Prop :=
  ∀ (s : State), s.seq ≠ .sHalt → s.lock = .free → s.handleV = true →
    let halted (reg : Byte) (t : State) : Prop :=
      t.err = .transportError ∧ t.errInfo = reg ∧ t.trace = s.trace ++ [.rd reg none] ∧ t.seq = .sHalt ∧
      t.mon = .mOff ∧ t.monEn = false ∧ t.lock = .free ∧ t.handleV = false ∧ t.dbt = 0#16 ∧ t.ht = 0#16 ∧
      t.events = s.events ∧ t.responses = s.responses ∧ t.evt = s.evt ∧ t.mem = s.mem
    (s.mon = .mIdle → s.monEn = true → ∃ t, runMove (.mon .err) s = .next t ∧ halted 0x07#8 t) ∧
    (s.mon = .mClear → ∃ t, runMove (.mon .err) s = .next t ∧ halted 0x09#8 t)

/-! ### The monitor (44_monitor.md) -/

/-- R223, R224: the poll of M_IDLE, answered ok: one INTF read; no button leaves everything but the trace; a button is
latched in EVT, DBT is loaded with 500, the monitor goes to M_DEBOUNCE. -/
def Obligations.MonitorPollDetects : Prop :=
  ∀ (a : Answer) (f : Byte) (s : State),
    s.mon = .mIdle → s.monEn = true → s.seq ≠ .sHalt → s.lock = .free → s.handleV = true →
    answeredByte a .intf s = some f →
    let polled : State :=
      { s with trace := s.trace ++ [.rd 0x07#8 (some f)], rdata := f, turn := .monitor, ans := a }
    (f.getLsbD 6 = false → f.getLsbD 7 = false → runMove (.mon a) s = .next polled) ∧
    (f.getLsbD 6 = true →
      runMove (.mon a) s = .next { polled with evt := .sw1, dbt := 500#16, mon := .mDebounce }) ∧
    (f.getLsbD 6 = false → f.getLsbD 7 = true →
      runMove (.mon a) s = .next { polled with evt := .sw2, dbt := 500#16, mon := .mDebounce })

/-- R225, R226, R232: the debounce takes exactly as many ticks as DBT holds, with no transaction: after fewer the exit
is not enabled, after that many the monitor goes to M_CLEAR and nothing else changes. -/
def Obligations.DebounceLastsItsTicks : Prop :=
  ∀ (n : Nat) (a : Answer) (s : State), s.mon = .mDebounce → s.seq ≠ .sHalt → n ≤ s.dbt.toNat →
    ∃ t, runMoves (List.replicate n .tick) s = .next t ∧ t.mon = .mDebounce ∧ t.dbt.toNat = s.dbt.toNat - n ∧
      t.trace = s.trace ∧ t.evt = s.evt ∧ t.lock = s.lock ∧
      (n < s.dbt.toNat → runMove (.mon a) t = .next t) ∧
      (n = s.dbt.toNat → runMove (.mon a) t = .next { t with mon := .mClear })

/-- R227, R228: the clearing read of M_CLEAR, answered ok, clears INTF whole and goes to M_DISPATCH; M_DISPATCH delivers
EVT when the consumer is ready, keeps it, and holds until then. -/
def Obligations.MonitorClearsThenDispatches : Prop :=
  ∀ (a : Answer) (g : Byte) (s : State), s.seq ≠ .sHalt →
    (s.mon = .mClear → s.lock = .free → s.handleV = true → answeredByte a .gpio s = some g →
      runMove (.mon a) s =
        .next { s with
          trace := s.trace ++ [.rd 0x09#8 (some g)], mem := Memory.write s.mem 0x07 0x00#8, rdata := g,
          turn := .monitor, ans := a, mon := .mDispatch }) ∧
    (s.mon = .mDispatch → s.evtReady = true →
      runMove (.mon a) s = .next { s with events := s.events ++ [s.evt], mon := .mIdle }) ∧
    (s.mon = .mDispatch → s.evtReady = false → runMove (.mon a) s = .next s)

/-- R222, R230, R101: in M_OFF the monitor has no step; in M_IDLE with MON_EN = 0 it stops, with no transport call; with
LOCK = HOST its poll and its clearing read hold. -/
def Obligations.MonitorStopsAndHolds : Prop :=
  ∀ (a : Answer) (s : State), s.seq ≠ .sHalt →
    (s.mon = .mOff → runMove (.mon a) s = .next s) ∧
    (s.mon = .mIdle → s.monEn = false → runMove (.mon a) s = .next { s with mon := .mOff }) ∧
    (s.mon = .mIdle → s.monEn = true → s.lock = .host → runMove (.mon a) s = .next s) ∧
    (s.mon = .mClear → s.lock = .host → runMove (.mon a) s = .next s)

/-- R235, R26: a latched event survives: while the monitor is in M_DEBOUNCE, M_CLEAR or M_DISPATCH every step keeps EVT,
whatever happens to INTF, unless it is a reset. -/
def Obligations.LatchedEventSurvives : Prop :=
  ∀ s t : State, eventLatchedIn s.mon = true → step s = .next t →
    t.evt = s.evt ∨ (t.seq = .sReset ∧ t.trace = [] ∧ t.evt = .none)

/-- R233: the monitor never writes a register: a monitor step appends no write to the trace and changes no byte of the
expander but INTF. -/
def Obligations.MonitorNeverWrites : Prop :=
  ∀ (a : Answer) (s t : State), runMove (.mon a) s = .next t →
    (t.trace = s.trace ∨ ∃ reg v, t.trace = s.trace ++ [.rd reg v]) ∧
    (∀ b : Nat, b ≠ 0x07 → Memory.read t.mem b = Memory.read s.mem b) ∧ t.pin = s.pin ∧ t.undriven = s.undriven

/-- R224 to R228, V-M3, with the reference peripheral: from M_IDLE with a button's flag set and the consumer ready, the
poll, 500 ticks, the exit, the clearing read and the delivery give exactly one event, SW1 before SW2, an INTF of 0x00,
two INTF and GPIO reads in the trace, and the monitor back in M_IDLE, whose next poll finds nothing. -/
def Obligations.OnePressGivesOneEvent : Prop :=
  ∀ (b : Answer) (s : State),
    Legal s → s.seq = .sReady → s.mon = .mIdle → s.monEn = true → s.evtReady = true →
    decodeButton (s.reg .intf) ≠ .none →
    ∃ t u g, runMoves
        ([.mon .reference] ++ List.replicate 500 .tick ++ [.mon b, .mon .reference, .mon b]) s = .next t ∧
      t.events = s.events ++ [decodeButton (s.reg .intf)] ∧ t.mon = .mIdle ∧ t.reg .intf = 0x00#8 ∧
      t.trace = s.trace ++ [.rd 0x07#8 (some (s.reg .intf)), .rd 0x09#8 (some g)] ∧ t.seq = .sReady ∧
      t.responses = s.responses ∧
      runMove (.mon .reference) t = .next u ∧ u.mon = .mIdle ∧ u.events = t.events

/-! ### The expander and its flags (20_memory.md R87 to R98, 43_button.md R204, 60_exceptions.md R260) -/

/-- R95: a GPIO read of the reference peripheral returns, bit by bit, the pin level of an input and the latch bit of an
output; an INTF read returns the flags (R94). So a run that it answers meets the premises `NoTransportError`,
`PeripheralP1toP6` and `Readback` of R315 (it satisfies R84 to R91 and takes READBACK as true). -/
def Obligations.ReferenceReads : Prop :=
  (∀ s : State,
    (∃ g, answeredByte .reference .gpio s = some g ∧ ∀ i, i < 8 →
      g.getLsbD i = if (s.reg .iodir).getLsbD i then s.levels.getLsbD i else (s.reg .olat).getLsbD i) ∧
    answeredByte .reference .intf s = some (Memory.read s.mem 0x07)) ∧
  ∀ (ms : List Move) (s : State), AnsweredByReference ms →
    NoTransportErrorIn ms ∧ PeripheralP1toP6 ms s ∧ Readback ms s

/-- R96, R97, R98, R86: the three events of the environment, on any configuration and after INIT. A press sets its pin to 0
and latches its flag by the rule of R96. A release with GPPU[i] = 1 sets its pin to 1; a released pin reads 1 as long as
GPPU[i] = 1, a pressed one reads 0; no flag with INTCON[i] = DEFVAL[i] = 1. SetFlag sets the flags of its byte. On a
configured expander a press sets the flag and a release leaves INTF. Nothing else changes. What R97 leaves open is the
model's: a released pin that nothing pulls up has some level (log 12), and its flag follows R87 (log 13). -/
def Obligations.PressAndReleaseAfterInit : Prop :=
  ∀ (b : Button) (m : Byte) (s : State), Legal s →
    let at_ (r : Reg) : Bool := (s.reg r).getLsbD b.pin
    let watched : Bool := at_ .gpinten && at_ .iodir
    let others (t : State) : Prop :=
      (∀ i, i < 8 → i ≠ b.pin →
        t.levels.getLsbD i = s.levels.getLsbD i ∧ (t.reg .intf).getLsbD i = (s.reg .intf).getLsbD i) ∧
      ∀ a, a ≠ 0x07 → Memory.read t.mem a = Memory.read s.mem a
    let readsWhilePulledUp (t : State) (level : Bool) : Prop :=
      ∀ u : State, u.pin = t.pin → u.undriven = t.undriven → (u.reg .gppu).getLsbD b.pin = true →
        u.levels.getLsbD b.pin = level
    (∃ t, runMove (.press b) s = .next t ∧ others t ∧
      t = { s with mem := t.mem, pin := t.pin, undriven := t.undriven } ∧
      t.levels.getLsbD b.pin = false ∧ readsWhilePulledUp t false ∧
      (t.reg .intf).getLsbD b.pin =
        (at_ .intf || (watched && if at_ .intcon then at_ .defval else s.levels.getLsbD b.pin)) ∧
      (Configured s → (t.reg .intf).getLsbD b.pin = true)) ∧
    (∃ t, runMove (.release b) s = .next t ∧ others t ∧
      t = { s with mem := t.mem, pin := t.pin, undriven := t.undriven, draws := t.draws } ∧
      readsWhilePulledUp t true ∧
      (at_ .gppu = true → t.levels.getLsbD b.pin = true ∧ t.draws = s.draws) ∧
      (at_ .intcon = true → at_ .defval = true → t.mem = s.mem) ∧
      ((at_ .intcon && at_ .defval) = false → (t.reg .intf).getLsbD b.pin =
        (at_ .intf || (watched &&
          if at_ .intcon then t.levels.getLsbD b.pin else t.levels.getLsbD b.pin != s.levels.getLsbD b.pin))) ∧
      (Configured s → t = { s with pin := t.pin, undriven := t.undriven })) ∧
    runMove (.setFlag m) s = .next { s with mem := Memory.write s.mem 0x07 (s.reg .intf ||| m) }

/-- R204, S6: under the peripheral properties P5 and P6, without transport errors and with no new flag, any number of
POLLBTN and BTNSTATE commands answer by the same INTF, which they leave as it is; a GPIO read by CLRINT, GETLED or SETLED,
or by the monitor's M_CLEAR step, makes the next POLLBTN answer 0x00. -/
def Obligations.StaleEventsUntilCleared : Prop :=
  ∀ (cs : List (Byte × Answer)) (x : BitVec 5) (w : Byte) (a b c : Answer) (s : State), Legal s → s.seq = .sReady →
    let f := s.reg .intf
    let asks (v : Byte) : Prop :=
      (∃ y, decodeCommand v = .pollbtn y) ∨
      ∃ y p, decodeCommand v = .btnstate y p ∧ (p.toNat = 6 ∨ p.toNat = 7)
    let answer (v : Byte) : Byte :=
      if opField v = 0b100#3 then (if f.getLsbD 6 then 0x01#8 else if f.getLsbD 7 then 0x02#8 else 0x00#8)
      else if f.getLsbD (v &&& 0x0F#8).toNat then 0x01#8 else 0x00#8
    let clears : Prop :=
      (∃ y, decodeCommand w = .clrint y) ∨ (∃ y p, decodeCommand w = .getled y p ∧ p.toNat ≤ 5) ∨
      ∃ on p, decodeCommand w = .setled on p ∧ p.toNat ≤ 5
    let asking : List Move := cs.flatMap fun v => [.offer v.1, .seq v.2]
    let poll : List Move := [.offer (wordOpX 0b100#3 x), .seq c]
    let hosts : List Move := [.offer w, .seq a, .seq b] ++ poll
    let monitors : List Move := [.mon a] ++ poll
    (∀ v ∈ cs, asks v.1) → NoTransportErrorIn asking → PeripheralP1toP6 asking s →
    ∃ t, runMoves asking s = .next t ∧ Legal t ∧ t.seq = .sReady ∧ t.mem = s.mem ∧ t.mon = s.mon ∧
      t.responses = s.responses ++ cs.map (fun v => answer v.1) ∧
      (clears → NoTransportErrorIn hosts → PeripheralP1toP6 hosts t →
        ∃ u v, runMoves hosts t = .next u ∧ u.responses = t.responses ++ [v, 0x00#8] ∧ u.seq = .sReady) ∧
      (s.mon = .mClear → NoTransportErrorIn monitors → PeripheralP1toP6 monitors t →
        ∃ u, runMoves monitors t = .next u ∧ u.responses = t.responses ++ [0x00#8] ∧ u.seq = .sReady)

/-- R44, R260, R263: a flag of INTF never falls but by a GPIO read that is answered with a byte, and then all flags
together: if a step clears a set bit of INTF, it has appended that read of 0x09 to the trace and INTF is 0x00. That a step
whose write is answered err lowers no flag is the model's reading (log 10): R263 calls what a failed write did to the
peripheral unspecified, and U7 speaks of its target register alone. -/
def Obligations.FlagsFallOnlyByGpioReads : Prop :=
  ∀ (s t : State) (i : Nat), Legal s → step s = .next t → i < 8 →
    (s.reg .intf).getLsbD i = true → (t.reg .intf).getLsbD i = false →
    (∃ v, t.trace = s.trace ++ [.rd 0x09#8 (some v)]) ∧ t.reg .intf = 0x00#8

/-- R142, R232, R36: a tick takes one from each timer that is not zero and never wraps; in S_HALT timers do not run
(R266). Nothing else changes. -/
def Obligations.TicksCountDown : Prop :=
  ∀ s : State,
    (s.seq = .sHalt → runMove .tick s = .next s) ∧
    (s.seq ≠ .sHalt → ∃ t, runMove .tick s = .next t ∧ t = { s with dbt := t.dbt, ht := t.ht } ∧
      t.dbt.toNat = s.dbt.toNat - 1 ∧ t.ht.toNat = s.ht.toNat - 1)

/-- Two canonical memories that read the same at every address are the same list (the model's canonical form, log 2). -/
def Obligations.EqualMemoriesAreEqualLists : Prop :=
  ∀ m n : List Host.Cell, Memory.wf m → Memory.wf n → (∀ a, Memory.read m a = Memory.read n a) → m = n

/-- R313, R314: runs over a list of commands and their end, of runs without a reset (the model's choice where R313 is silent,
log 24). Along any run without a reset that does not halt, every
accepted command has responded once or is the one in progress. A run that is over stays so: the sequencer moves no more,
nor does a monitor that is off or halted; a good end is ready and unlocked with one response for each command of the list;
whatever follows without the host leaves it ready or halted with the same responses, and with the monitor off makes no
transport call and gives no event. -/
def Obligations.FinishedRunsStayFinished : Prop :=
  (∀ (ms : List Move) (s t : State), Legal s → Move.reset ∉ ms → runMoves ms s = .next t → t.seq ≠ .sHalt →
    ∃ rs, t.responses = s.responses ++ rs ∧
      rs.length + commandsInProgress t = (acceptedIn ms s).length + commandsInProgress s) ∧
  ∀ (claim : State → Prop) (cmds : List Byte) (ms : List Move) (s t : State),
    Legal s → RunOver claim cmds ms s t →
    (∀ a : Answer, runMove (.seq a) t = .next t) ∧
    (t.mon = .mOff ∨ t.seq = .sHalt → ∀ a : Answer, runMove (.mon a) t = .next t) ∧
    (GoodEnd claim cmds ms s t →
      t.seq = .sReady ∧ t.lock = .free ∧ acceptedIn ms s = cmds ∧
      ∃ rs, t.responses = s.responses ++ rs ∧ rs.length = cmds.length) ∧
    ∀ (further : List Move) (u : State), (∀ m ∈ further, monitorActivity m = true) →
      runMoves further t = .next u →
      (u.seq = t.seq ∨ u.seq = .sHalt) ∧ u.responses = t.responses ∧
      (t.mon = .mOff → u.seq = t.seq ∧ u.trace = t.trace ∧ u.events = t.events ∧ u.mon = .mOff)
end

