-- ==== Sys2Proof/Laws/Memory.lean ====
section
/-! SUPPORT. The laws of the register space: a read after a write, the other addresses, and that a write keeps the
canonical form. -/

namespace Sys2Proof.Machine

@[simp] theorem Memory.read_nil (a : Nat) : Memory.read [] a = Memory.unlisted a := rfl

theorem Memory.read_below (m : List Host.Cell) (a : Nat) (h : ∀ c ∈ m, a < c.1) :
    Memory.read m a = Memory.unlisted a := by
  induction m with
  | nil => rfl
  | cons c rest ih =>
    have hc : c.1 ≠ a := Nat.ne_of_gt (h c (by simp))
    simp [Memory.read, hc, ih fun d hd => h d (by simp [hd])]

theorem Memory.read_cons_same (m : List Host.Cell) (a : Nat) (v : Byte) (h : ∀ c ∈ m, a < c.1) :
    Memory.read (Memory.cons a v m) a = v := by
  unfold Memory.cons
  split
  · rename_i hv; rw [Memory.read_below m a h, hv]
  · simp [Memory.read]

theorem Memory.read_cons_other (m : List Host.Cell) (a b : Nat) (v : Byte) (h : b ≠ a) :
    Memory.read (Memory.cons a v m) b = Memory.read m b := by
  unfold Memory.cons
  split
  · rfl
  · simp [Memory.read, Ne.symm h]

/-- The tail of a canonical memory is canonical, and lies above its head. -/
theorem Memory.wf_tail {c : Host.Cell} {m : List Host.Cell} (h : Memory.wf (c :: m)) :
    Memory.wf m ∧ ∀ d ∈ m, c.1 < d.1 := by
  obtain ⟨hp, hn⟩ := h
  simp only [List.map_cons, List.pairwise_cons] at hp
  exact ⟨⟨hp.2, fun d hd => hn d (by simp [hd])⟩, fun d hd => hp.1 d.1 (List.mem_map_of_mem hd)⟩

theorem Memory.read_write_same (m : List Host.Cell) (a : Nat) (v : Byte) (h : Memory.wf m) :
    Memory.read (Memory.write m a v) a = v := by
  induction m with
  | nil => exact Memory.read_cons_same [] a v (by simp)
  | cons c rest ih =>
    obtain ⟨hw, hlt⟩ := Memory.wf_tail h
    unfold Memory.write
    split
    · rename_i hac
      refine Memory.read_cons_same _ a v fun d hd => ?_
      rcases List.mem_cons.mp hd with rfl | hd
      · exact hac
      · exact hac.trans (hlt d hd)
    · split
      · rename_i _ hac
        exact Memory.read_cons_same rest a v fun d hd => hac ▸ hlt d hd
      · rename_i _ hac
        simp [Memory.read, Ne.symm hac, ih hw]

theorem Memory.read_write_other (m : List Host.Cell) (a b : Nat) (v : Byte) (h : b ≠ a) :
    Memory.read (Memory.write m a v) b = Memory.read m b := by
  induction m with
  | nil => exact Memory.read_cons_other [] a b v h
  | cons c rest ih =>
    unfold Memory.write
    split
    · exact Memory.read_cons_other _ a b v h
    · split
      · rename_i _ hac
        rw [Memory.read_cons_other rest a b v h]
        simp [Memory.read, ← hac, Ne.symm h]
      · simp [Memory.read, ih]

/-- Every cell of a memory after a write is the cell written or was there before. -/
theorem Memory.mem_write (m : List Host.Cell) (a : Nat) (v : Byte) (d : Host.Cell) (h : d ∈ Memory.write m a v) :
    (d = (a, v) ∧ v ≠ Memory.unlisted a) ∨ d ∈ m := by
  induction m with
  | nil =>
    simp only [Memory.write, Memory.cons] at h
    split at h <;> simp_all
  | cons c rest ih =>
    simp only [Memory.write, Memory.cons] at h
    split at h
    · split at h <;> simp_all
    · split at h
      · split at h <;> simp_all
        rcases h with h | h <;> simp [h]
      · rcases List.mem_cons.mp h with h | h
        · exact .inr (by simp [h])
        · exact (ih h).imp id (by intro hd; simp [hd])

theorem Memory.cons_wf (m : List Host.Cell) (a : Nat) (v : Byte) (hm : Memory.wf m) (h : ∀ c ∈ m, a < c.1) :
    Memory.wf (Memory.cons a v m) := by
  unfold Memory.cons
  split
  · exact hm
  · rename_i hv
    refine ⟨?_, ?_⟩
    · simp only [List.map_cons, List.pairwise_cons, List.mem_map]
      exact ⟨fun b ⟨c, hc, hb⟩ => hb ▸ h c hc, hm.1⟩
    · intro c hc
      rcases List.mem_cons.mp hc with rfl | hc
      · exact hv
      · exact hm.2 c hc

/-- The one memory operation that changes memory keeps the canonical form. -/
theorem Memory.write_wf (m : List Host.Cell) (a : Nat) (v : Byte) (h : Memory.wf m) :
    Memory.wf (Memory.write m a v) := by
  induction m with
  | nil => exact Memory.cons_wf [] a v h (by simp)
  | cons c rest ih =>
    obtain ⟨hw, hlt⟩ := Memory.wf_tail h
    unfold Memory.write
    split
    · rename_i hac
      refine Memory.cons_wf _ a v h fun d hd => ?_
      rcases List.mem_cons.mp hd with rfl | hd
      · exact hac
      · exact hac.trans (hlt d hd)
    · split
      · rename_i _ hac
        exact Memory.cons_wf rest a v hw fun d hd => hac ▸ hlt d hd
      · rename_i hna hac
        have hca : c.1 < a := by omega
        obtain ⟨hp, hn⟩ := ih hw
        refine ⟨?_, ?_⟩
        · simp only [List.map_cons, List.pairwise_cons, List.mem_map]
          refine ⟨?_, hp⟩
          rintro b ⟨d, hd, rfl⟩
          rcases Memory.mem_write rest a v d hd with ⟨rfl, _⟩ | hd
          · exact hca
          · exact hlt d hd
        · intro d hd
          rcases List.mem_cons.mp hd with rfl | hd
          · exact h.2 _ (by simp)
          · exact hn d hd

end Sys2Proof.Machine
end

