-- ==== Sys2Proof/Laws/State.lean ====
section
/-! SUPPORT. One lemma per field per update of the state, each true by rfl, so that no later proof unfolds an update. -/

namespace Sys2Proof.Machine

@[simp] theorem State.log_seq (c : Call) (s : State) : (s.log c).seq = s.seq := rfl
@[simp] theorem State.log_mon (c : Call) (s : State) : (s.log c).mon = s.mon := rfl
@[simp] theorem State.log_monEn (c : Call) (s : State) : (s.log c).monEn = s.monEn := rfl
@[simp] theorem State.log_lock (c : Call) (s : State) : (s.log c).lock = s.lock := rfl
@[simp] theorem State.log_handleV (c : Call) (s : State) : (s.log c).handleV = s.handleV := rfl
@[simp] theorem State.log_handleBus (c : Call) (s : State) : (s.log c).handleBus = s.handleBus := rfl
@[simp] theorem State.log_cfgBus (c : Call) (s : State) : (s.log c).cfgBus = s.cfgBus := rfl
@[simp] theorem State.log_cfgDev (c : Call) (s : State) : (s.log c).cfgDev = s.cfgDev := rfl
@[simp] theorem State.log_cmdr (c : Call) (s : State) : (s.log c).cmdr = s.cmdr := rfl
@[simp] theorem State.log_tmp (c : Call) (s : State) : (s.log c).tmp = s.tmp := rfl
@[simp] theorem State.log_rsp (c : Call) (s : State) : (s.log c).rsp = s.rsp := rfl
@[simp] theorem State.log_evt (c : Call) (s : State) : (s.log c).evt = s.evt := rfl
@[simp] theorem State.log_err (c : Call) (s : State) : (s.log c).err = s.err := rfl
@[simp] theorem State.log_errInfo (c : Call) (s : State) : (s.log c).errInfo = s.errInfo := rfl
@[simp] theorem State.log_dbt (c : Call) (s : State) : (s.log c).dbt = s.dbt := rfl
@[simp] theorem State.log_ht (c : Call) (s : State) : (s.log c).ht = s.ht := rfl
@[simp] theorem State.log_trace (c : Call) (s : State) : (s.log c).trace = s.trace ++ [c] := rfl
@[simp] theorem State.log_responses (c : Call) (s : State) : (s.log c).responses = s.responses := rfl
@[simp] theorem State.log_events (c : Call) (s : State) : (s.log c).events = s.events := rfl
@[simp] theorem State.log_mem (c : Call) (s : State) : (s.log c).mem = s.mem := rfl
@[simp] theorem State.log_pin (c : Call) (s : State) : (s.log c).pin = s.pin := rfl
@[simp] theorem State.log_undriven (c : Call) (s : State) : (s.log c).undriven = s.undriven := rfl
@[simp] theorem State.log_evtReady (c : Call) (s : State) : (s.log c).evtReady = s.evtReady := rfl
@[simp] theorem State.log_inputs (c : Call) (s : State) : (s.log c).inputs = s.inputs := rfl
@[simp] theorem State.log_turn (c : Call) (s : State) : (s.log c).turn = s.turn := rfl
@[simp] theorem State.log_ans (c : Call) (s : State) : (s.log c).ans = s.ans := rfl
@[simp] theorem State.log_rdata (c : Call) (s : State) : (s.log c).rdata = s.rdata := rfl
@[simp] theorem State.log_draws (c : Call) (s : State) : (s.log c).draws = s.draws := rfl

@[simp] theorem State.respond_seq (v : Byte) (s : State) : (s.respond v).seq = .sReady := rfl
@[simp] theorem State.respond_mon (v : Byte) (s : State) : (s.respond v).mon = s.mon := rfl
@[simp] theorem State.respond_monEn (v : Byte) (s : State) : (s.respond v).monEn = s.monEn := rfl
@[simp] theorem State.respond_lock (v : Byte) (s : State) : (s.respond v).lock = s.lock := rfl
@[simp] theorem State.respond_handleV (v : Byte) (s : State) : (s.respond v).handleV = s.handleV := rfl
@[simp] theorem State.respond_handleBus (v : Byte) (s : State) : (s.respond v).handleBus = s.handleBus := rfl
@[simp] theorem State.respond_cfgBus (v : Byte) (s : State) : (s.respond v).cfgBus = s.cfgBus := rfl
@[simp] theorem State.respond_cfgDev (v : Byte) (s : State) : (s.respond v).cfgDev = s.cfgDev := rfl
@[simp] theorem State.respond_cmdr (v : Byte) (s : State) : (s.respond v).cmdr = s.cmdr := rfl
@[simp] theorem State.respond_tmp (v : Byte) (s : State) : (s.respond v).tmp = s.tmp := rfl
@[simp] theorem State.respond_rsp (v : Byte) (s : State) : (s.respond v).rsp = v := rfl
@[simp] theorem State.respond_evt (v : Byte) (s : State) : (s.respond v).evt = s.evt := rfl
@[simp] theorem State.respond_err (v : Byte) (s : State) : (s.respond v).err = s.err := rfl
@[simp] theorem State.respond_errInfo (v : Byte) (s : State) : (s.respond v).errInfo = s.errInfo := rfl
@[simp] theorem State.respond_dbt (v : Byte) (s : State) : (s.respond v).dbt = s.dbt := rfl
@[simp] theorem State.respond_ht (v : Byte) (s : State) : (s.respond v).ht = s.ht := rfl
@[simp] theorem State.respond_trace (v : Byte) (s : State) : (s.respond v).trace = s.trace := rfl
@[simp] theorem State.respond_responses (v : Byte) (s : State) : (s.respond v).responses = s.responses ++ [v] := rfl
@[simp] theorem State.respond_events (v : Byte) (s : State) : (s.respond v).events = s.events := rfl
@[simp] theorem State.respond_mem (v : Byte) (s : State) : (s.respond v).mem = s.mem := rfl
@[simp] theorem State.respond_pin (v : Byte) (s : State) : (s.respond v).pin = s.pin := rfl
@[simp] theorem State.respond_undriven (v : Byte) (s : State) : (s.respond v).undriven = s.undriven := rfl
@[simp] theorem State.respond_evtReady (v : Byte) (s : State) : (s.respond v).evtReady = s.evtReady := rfl
@[simp] theorem State.respond_inputs (v : Byte) (s : State) : (s.respond v).inputs = s.inputs := rfl
@[simp] theorem State.respond_turn (v : Byte) (s : State) : (s.respond v).turn = s.turn := rfl
@[simp] theorem State.respond_ans (v : Byte) (s : State) : (s.respond v).ans = s.ans := rfl
@[simp] theorem State.respond_rdata (v : Byte) (s : State) : (s.respond v).rdata = s.rdata := rfl
@[simp] theorem State.respond_draws (v : Byte) (s : State) : (s.respond v).draws = s.draws := rfl

@[simp] theorem State.emit_seq (e : Event) (s : State) : (s.emit e).seq = s.seq := rfl
@[simp] theorem State.emit_mon (e : Event) (s : State) : (s.emit e).mon = s.mon := rfl
@[simp] theorem State.emit_monEn (e : Event) (s : State) : (s.emit e).monEn = s.monEn := rfl
@[simp] theorem State.emit_lock (e : Event) (s : State) : (s.emit e).lock = s.lock := rfl
@[simp] theorem State.emit_handleV (e : Event) (s : State) : (s.emit e).handleV = s.handleV := rfl
@[simp] theorem State.emit_handleBus (e : Event) (s : State) : (s.emit e).handleBus = s.handleBus := rfl
@[simp] theorem State.emit_cfgBus (e : Event) (s : State) : (s.emit e).cfgBus = s.cfgBus := rfl
@[simp] theorem State.emit_cfgDev (e : Event) (s : State) : (s.emit e).cfgDev = s.cfgDev := rfl
@[simp] theorem State.emit_cmdr (e : Event) (s : State) : (s.emit e).cmdr = s.cmdr := rfl
@[simp] theorem State.emit_tmp (e : Event) (s : State) : (s.emit e).tmp = s.tmp := rfl
@[simp] theorem State.emit_rsp (e : Event) (s : State) : (s.emit e).rsp = s.rsp := rfl
@[simp] theorem State.emit_evt (e : Event) (s : State) : (s.emit e).evt = s.evt := rfl
@[simp] theorem State.emit_err (e : Event) (s : State) : (s.emit e).err = s.err := rfl
@[simp] theorem State.emit_errInfo (e : Event) (s : State) : (s.emit e).errInfo = s.errInfo := rfl
@[simp] theorem State.emit_dbt (e : Event) (s : State) : (s.emit e).dbt = s.dbt := rfl
@[simp] theorem State.emit_ht (e : Event) (s : State) : (s.emit e).ht = s.ht := rfl
@[simp] theorem State.emit_trace (e : Event) (s : State) : (s.emit e).trace = s.trace := rfl
@[simp] theorem State.emit_responses (e : Event) (s : State) : (s.emit e).responses = s.responses := rfl
@[simp] theorem State.emit_events (e : Event) (s : State) : (s.emit e).events = s.events ++ [e] := rfl
@[simp] theorem State.emit_mem (e : Event) (s : State) : (s.emit e).mem = s.mem := rfl
@[simp] theorem State.emit_pin (e : Event) (s : State) : (s.emit e).pin = s.pin := rfl
@[simp] theorem State.emit_undriven (e : Event) (s : State) : (s.emit e).undriven = s.undriven := rfl
@[simp] theorem State.emit_evtReady (e : Event) (s : State) : (s.emit e).evtReady = s.evtReady := rfl
@[simp] theorem State.emit_inputs (e : Event) (s : State) : (s.emit e).inputs = s.inputs := rfl
@[simp] theorem State.emit_turn (e : Event) (s : State) : (s.emit e).turn = s.turn := rfl
@[simp] theorem State.emit_ans (e : Event) (s : State) : (s.emit e).ans = s.ans := rfl
@[simp] theorem State.emit_rdata (e : Event) (s : State) : (s.emit e).rdata = s.rdata := rfl
@[simp] theorem State.emit_draws (e : Event) (s : State) : (s.emit e).draws = s.draws := rfl

@[simp] theorem State.raise_seq (e : ErrCode) (info : Byte) (s : State) : (s.raise e info).seq = .sHalt := rfl
@[simp] theorem State.raise_mon (e : ErrCode) (info : Byte) (s : State) : (s.raise e info).mon = .mOff := rfl
@[simp] theorem State.raise_monEn (e : ErrCode) (info : Byte) (s : State) : (s.raise e info).monEn = false := rfl
@[simp] theorem State.raise_lock (e : ErrCode) (info : Byte) (s : State) : (s.raise e info).lock = .free := rfl
@[simp] theorem State.raise_handleV (e : ErrCode) (info : Byte) (s : State) : (s.raise e info).handleV = false := rfl
@[simp] theorem State.raise_handleBus (e : ErrCode) (info : Byte) (s : State) : (s.raise e info).handleBus = s.handleBus := rfl
@[simp] theorem State.raise_cfgBus (e : ErrCode) (info : Byte) (s : State) : (s.raise e info).cfgBus = s.cfgBus := rfl
@[simp] theorem State.raise_cfgDev (e : ErrCode) (info : Byte) (s : State) : (s.raise e info).cfgDev = s.cfgDev := rfl
@[simp] theorem State.raise_cmdr (e : ErrCode) (info : Byte) (s : State) : (s.raise e info).cmdr = s.cmdr := rfl
@[simp] theorem State.raise_tmp (e : ErrCode) (info : Byte) (s : State) : (s.raise e info).tmp = s.tmp := rfl
@[simp] theorem State.raise_rsp (e : ErrCode) (info : Byte) (s : State) : (s.raise e info).rsp = s.rsp := rfl
@[simp] theorem State.raise_evt (e : ErrCode) (info : Byte) (s : State) : (s.raise e info).evt = s.evt := rfl
@[simp] theorem State.raise_err (e : ErrCode) (info : Byte) (s : State) : (s.raise e info).err = e := rfl
@[simp] theorem State.raise_errInfo (e : ErrCode) (info : Byte) (s : State) : (s.raise e info).errInfo = info := rfl
@[simp] theorem State.raise_dbt (e : ErrCode) (info : Byte) (s : State) : (s.raise e info).dbt = 0#16 := rfl
@[simp] theorem State.raise_ht (e : ErrCode) (info : Byte) (s : State) : (s.raise e info).ht = 0#16 := rfl
@[simp] theorem State.raise_trace (e : ErrCode) (info : Byte) (s : State) : (s.raise e info).trace = s.trace := rfl
@[simp] theorem State.raise_responses (e : ErrCode) (info : Byte) (s : State) : (s.raise e info).responses = s.responses := rfl
@[simp] theorem State.raise_events (e : ErrCode) (info : Byte) (s : State) : (s.raise e info).events = s.events := rfl
@[simp] theorem State.raise_mem (e : ErrCode) (info : Byte) (s : State) : (s.raise e info).mem = s.mem := rfl
@[simp] theorem State.raise_pin (e : ErrCode) (info : Byte) (s : State) : (s.raise e info).pin = s.pin := rfl
@[simp] theorem State.raise_undriven (e : ErrCode) (info : Byte) (s : State) : (s.raise e info).undriven = s.undriven := rfl
@[simp] theorem State.raise_evtReady (e : ErrCode) (info : Byte) (s : State) : (s.raise e info).evtReady = s.evtReady := rfl
@[simp] theorem State.raise_inputs (e : ErrCode) (info : Byte) (s : State) : (s.raise e info).inputs = s.inputs := rfl
@[simp] theorem State.raise_turn (e : ErrCode) (info : Byte) (s : State) : (s.raise e info).turn = s.turn := rfl
@[simp] theorem State.raise_ans (e : ErrCode) (info : Byte) (s : State) : (s.raise e info).ans = s.ans := rfl
@[simp] theorem State.raise_rdata (e : ErrCode) (info : Byte) (s : State) : (s.raise e info).rdata = s.rdata := rfl
@[simp] theorem State.raise_draws (e : ErrCode) (info : Byte) (s : State) : (s.raise e info).draws = s.draws := rfl

@[simp] theorem State.setReg_seq (r : Reg) (v : Byte) (s : State) : (s.setReg r v).seq = s.seq := rfl
@[simp] theorem State.setReg_mon (r : Reg) (v : Byte) (s : State) : (s.setReg r v).mon = s.mon := rfl
@[simp] theorem State.setReg_monEn (r : Reg) (v : Byte) (s : State) : (s.setReg r v).monEn = s.monEn := rfl
@[simp] theorem State.setReg_lock (r : Reg) (v : Byte) (s : State) : (s.setReg r v).lock = s.lock := rfl
@[simp] theorem State.setReg_handleV (r : Reg) (v : Byte) (s : State) : (s.setReg r v).handleV = s.handleV := rfl
@[simp] theorem State.setReg_handleBus (r : Reg) (v : Byte) (s : State) : (s.setReg r v).handleBus = s.handleBus := rfl
@[simp] theorem State.setReg_cfgBus (r : Reg) (v : Byte) (s : State) : (s.setReg r v).cfgBus = s.cfgBus := rfl
@[simp] theorem State.setReg_cfgDev (r : Reg) (v : Byte) (s : State) : (s.setReg r v).cfgDev = s.cfgDev := rfl
@[simp] theorem State.setReg_cmdr (r : Reg) (v : Byte) (s : State) : (s.setReg r v).cmdr = s.cmdr := rfl
@[simp] theorem State.setReg_tmp (r : Reg) (v : Byte) (s : State) : (s.setReg r v).tmp = s.tmp := rfl
@[simp] theorem State.setReg_rsp (r : Reg) (v : Byte) (s : State) : (s.setReg r v).rsp = s.rsp := rfl
@[simp] theorem State.setReg_evt (r : Reg) (v : Byte) (s : State) : (s.setReg r v).evt = s.evt := rfl
@[simp] theorem State.setReg_err (r : Reg) (v : Byte) (s : State) : (s.setReg r v).err = s.err := rfl
@[simp] theorem State.setReg_errInfo (r : Reg) (v : Byte) (s : State) : (s.setReg r v).errInfo = s.errInfo := rfl
@[simp] theorem State.setReg_dbt (r : Reg) (v : Byte) (s : State) : (s.setReg r v).dbt = s.dbt := rfl
@[simp] theorem State.setReg_ht (r : Reg) (v : Byte) (s : State) : (s.setReg r v).ht = s.ht := rfl
@[simp] theorem State.setReg_trace (r : Reg) (v : Byte) (s : State) : (s.setReg r v).trace = s.trace := rfl
@[simp] theorem State.setReg_responses (r : Reg) (v : Byte) (s : State) : (s.setReg r v).responses = s.responses := rfl
@[simp] theorem State.setReg_events (r : Reg) (v : Byte) (s : State) : (s.setReg r v).events = s.events := rfl
@[simp] theorem State.setReg_mem (r : Reg) (v : Byte) (s : State) : (s.setReg r v).mem = Memory.write s.mem r.addr.toNat v := rfl
@[simp] theorem State.setReg_pin (r : Reg) (v : Byte) (s : State) : (s.setReg r v).pin = s.pin := rfl
@[simp] theorem State.setReg_undriven (r : Reg) (v : Byte) (s : State) : (s.setReg r v).undriven = s.undriven := rfl
@[simp] theorem State.setReg_evtReady (r : Reg) (v : Byte) (s : State) : (s.setReg r v).evtReady = s.evtReady := rfl
@[simp] theorem State.setReg_inputs (r : Reg) (v : Byte) (s : State) : (s.setReg r v).inputs = s.inputs := rfl
@[simp] theorem State.setReg_turn (r : Reg) (v : Byte) (s : State) : (s.setReg r v).turn = s.turn := rfl
@[simp] theorem State.setReg_ans (r : Reg) (v : Byte) (s : State) : (s.setReg r v).ans = s.ans := rfl
@[simp] theorem State.setReg_rdata (r : Reg) (v : Byte) (s : State) : (s.setReg r v).rdata = s.rdata := rfl
@[simp] theorem State.setReg_draws (r : Reg) (v : Byte) (s : State) : (s.setReg r v).draws = s.draws := rfl

@[simp] theorem State.ldcReset_seq (s : State) : s.ldcReset.seq = State.reset.seq := rfl
@[simp] theorem State.ldcReset_mon (s : State) : s.ldcReset.mon = State.reset.mon := rfl
@[simp] theorem State.ldcReset_monEn (s : State) : s.ldcReset.monEn = State.reset.monEn := rfl
@[simp] theorem State.ldcReset_lock (s : State) : s.ldcReset.lock = State.reset.lock := rfl
@[simp] theorem State.ldcReset_handleV (s : State) : s.ldcReset.handleV = State.reset.handleV := rfl
@[simp] theorem State.ldcReset_handleBus (s : State) : s.ldcReset.handleBus = State.reset.handleBus := rfl
@[simp] theorem State.ldcReset_cfgBus (s : State) : s.ldcReset.cfgBus = State.reset.cfgBus := rfl
@[simp] theorem State.ldcReset_cfgDev (s : State) : s.ldcReset.cfgDev = State.reset.cfgDev := rfl
@[simp] theorem State.ldcReset_cmdr (s : State) : s.ldcReset.cmdr = State.reset.cmdr := rfl
@[simp] theorem State.ldcReset_tmp (s : State) : s.ldcReset.tmp = State.reset.tmp := rfl
@[simp] theorem State.ldcReset_rsp (s : State) : s.ldcReset.rsp = State.reset.rsp := rfl
@[simp] theorem State.ldcReset_evt (s : State) : s.ldcReset.evt = State.reset.evt := rfl
@[simp] theorem State.ldcReset_err (s : State) : s.ldcReset.err = State.reset.err := rfl
@[simp] theorem State.ldcReset_errInfo (s : State) : s.ldcReset.errInfo = State.reset.errInfo := rfl
@[simp] theorem State.ldcReset_dbt (s : State) : s.ldcReset.dbt = State.reset.dbt := rfl
@[simp] theorem State.ldcReset_ht (s : State) : s.ldcReset.ht = State.reset.ht := rfl
@[simp] theorem State.ldcReset_trace (s : State) : s.ldcReset.trace = State.reset.trace := rfl
@[simp] theorem State.ldcReset_responses (s : State) : s.ldcReset.responses = State.reset.responses := rfl
@[simp] theorem State.ldcReset_events (s : State) : s.ldcReset.events = State.reset.events := rfl
@[simp] theorem State.ldcReset_mem (s : State) : s.ldcReset.mem = s.mem := rfl
@[simp] theorem State.ldcReset_pin (s : State) : s.ldcReset.pin = s.pin := rfl
@[simp] theorem State.ldcReset_undriven (s : State) : s.ldcReset.undriven = s.undriven := rfl
@[simp] theorem State.ldcReset_evtReady (s : State) : s.ldcReset.evtReady = s.evtReady := rfl
@[simp] theorem State.ldcReset_inputs (s : State) : s.ldcReset.inputs = s.inputs := rfl
@[simp] theorem State.ldcReset_turn (s : State) : s.ldcReset.turn = State.reset.turn := rfl
@[simp] theorem State.ldcReset_ans (s : State) : s.ldcReset.ans = State.reset.ans := rfl
@[simp] theorem State.ldcReset_rdata (s : State) : s.ldcReset.rdata = State.reset.rdata := rfl
@[simp] theorem State.ldcReset_draws (s : State) : s.ldcReset.draws = s.draws := rfl

@[simp] theorem State.takeByte_seq (v : Byte) (s : State) : (s.takeByte v).seq = s.seq := rfl
@[simp] theorem State.takeByte_mon (v : Byte) (s : State) : (s.takeByte v).mon = s.mon := rfl
@[simp] theorem State.takeByte_monEn (v : Byte) (s : State) : (s.takeByte v).monEn = s.monEn := rfl
@[simp] theorem State.takeByte_lock (v : Byte) (s : State) : (s.takeByte v).lock = s.lock := rfl
@[simp] theorem State.takeByte_handleV (v : Byte) (s : State) : (s.takeByte v).handleV = s.handleV := rfl
@[simp] theorem State.takeByte_handleBus (v : Byte) (s : State) : (s.takeByte v).handleBus = s.handleBus := rfl
@[simp] theorem State.takeByte_cfgBus (v : Byte) (s : State) : (s.takeByte v).cfgBus = s.cfgBus := rfl
@[simp] theorem State.takeByte_cfgDev (v : Byte) (s : State) : (s.takeByte v).cfgDev = s.cfgDev := rfl
@[simp] theorem State.takeByte_cmdr (v : Byte) (s : State) : (s.takeByte v).cmdr = s.cmdr := rfl
@[simp] theorem State.takeByte_tmp (v : Byte) (s : State) : (s.takeByte v).tmp = s.tmp := rfl
@[simp] theorem State.takeByte_rsp (v : Byte) (s : State) : (s.takeByte v).rsp = s.rsp := rfl
@[simp] theorem State.takeByte_evt (v : Byte) (s : State) : (s.takeByte v).evt = s.evt := rfl
@[simp] theorem State.takeByte_err (v : Byte) (s : State) : (s.takeByte v).err = s.err := rfl
@[simp] theorem State.takeByte_errInfo (v : Byte) (s : State) : (s.takeByte v).errInfo = s.errInfo := rfl
@[simp] theorem State.takeByte_dbt (v : Byte) (s : State) : (s.takeByte v).dbt = s.dbt := rfl
@[simp] theorem State.takeByte_ht (v : Byte) (s : State) : (s.takeByte v).ht = s.ht := rfl
@[simp] theorem State.takeByte_trace (v : Byte) (s : State) : (s.takeByte v).trace = s.trace := rfl
@[simp] theorem State.takeByte_responses (v : Byte) (s : State) : (s.takeByte v).responses = s.responses := rfl
@[simp] theorem State.takeByte_events (v : Byte) (s : State) : (s.takeByte v).events = s.events := rfl
@[simp] theorem State.takeByte_mem (v : Byte) (s : State) : (s.takeByte v).mem = s.mem := rfl
@[simp] theorem State.takeByte_pin (v : Byte) (s : State) : (s.takeByte v).pin = s.pin := rfl
@[simp] theorem State.takeByte_undriven (v : Byte) (s : State) : (s.takeByte v).undriven = s.undriven := rfl
@[simp] theorem State.takeByte_evtReady (v : Byte) (s : State) : (s.takeByte v).evtReady = s.evtReady := rfl
@[simp] theorem State.takeByte_inputs (v : Byte) (s : State) : (s.takeByte v).inputs = s.inputs := rfl
@[simp] theorem State.takeByte_turn (v : Byte) (s : State) : (s.takeByte v).turn = s.turn := rfl
@[simp] theorem State.takeByte_ans (v : Byte) (s : State) : (s.takeByte v).ans = s.ans := rfl
@[simp] theorem State.takeByte_rdata (v : Byte) (s : State) : (s.takeByte v).rdata = v := rfl
@[simp] theorem State.takeByte_draws (v : Byte) (s : State) : (s.takeByte v).draws = s.draws := rfl

end Sys2Proof.Machine
end

