-- ==== Sys2Proof/Laws/Expander.lean ====
section
/-! SUPPORT. The laws of the expander's registers: reading a register after a store, and what the side effects of a
transport call change. -/

namespace Sys2Proof.Machine

theorem Reg.addr_injective {r q : Reg} (h : r.addr.toNat = q.addr.toNat) : r = q := by
  cases r <;> cases q <;> first | rfl | (revert h; decide)

@[simp] theorem Reg.ofAddr_addr (r : Reg) : Reg.ofAddr r.addr = some r := by cases r <;> rfl

/-- The map is the table of R80 and nothing else. -/
theorem Reg.ofAddr_eq_some {a : Byte} {r : Reg} (h : Reg.ofAddr a = some r) : a = r.addr := by
  unfold Reg.ofAddr at h
  split at h <;> first | (cases h; rename_i ha; exact BitVec.eq_of_toNat_eq ha) | cases h

theorem Reg.readable_iff (r : Reg) : r.readable = true ↔ r = .intf ∨ r = .gpio := by cases r <;> decide

theorem Reg.writable_iff (r : Reg) : r.writable = true ↔ r ≠ .intf ∧ r ≠ .gpio := by cases r <;> decide

theorem State.reg_setReg_same (s : State) (r : Reg) (v : Byte) (h : Memory.wf s.mem) : (s.setReg r v).reg r = v :=
  Memory.read_write_same s.mem _ v h

theorem State.reg_setReg_other (s : State) (r q : Reg) (v : Byte) (h : q ≠ r) : (s.setReg r v).reg q = s.reg q :=
  Memory.read_write_other s.mem _ _ v fun e => h (Reg.addr_injective e)

theorem State.setReg_wf (s : State) (r : Reg) (v : Byte) (h : Memory.wf s.mem) : Memory.wf (s.setReg r v).mem :=
  Memory.write_wf s.mem _ v h

/-- A register's byte depends on the memory alone. -/
theorem State.reg_congr {s t : State} (r : Reg) (h : s.mem = t.mem) : s.reg r = t.reg r := by
  unfold State.reg; rw [h]

/-- The levels of the pins depend on the memory, the pins and what drives them. -/
theorem State.levels_congr {s t : State} (h : s.mem = t.mem) (hp : s.pin = t.pin) (hu : s.undriven = t.undriven) :
    s.levels = t.levels := by
  unfold State.levels; rw [State.reg_congr .gppu h, hp, hu]

/-- Bit by bit: a pin is at 1 if it is driven there, or undriven and pulled up (R86). -/
theorem State.levels_bit (s : State) (i : Nat) :
    getBit s.levels i = (getBit s.pin i || (getBit s.undriven i && getBit (s.reg .gppu) i)) := by
  simp [State.levels, getBit]

/-- A GPIO read's byte depends on the memory and the pins alone. -/
theorem State.gpio_congr {s t : State} (h : s.mem = t.mem) (hp : s.pin = t.pin) (hu : s.undriven = t.undriven) :
    s.gpio = t.gpio := by
  unfold State.gpio; rw [State.reg_congr .iodir h, State.reg_congr .olat h, State.levels_congr h hp hu]

@[simp] theorem State.readEffect_intf (s : State) : s.readEffect .intf = s := rfl

@[simp] theorem State.readEffect_gpio (s : State) : s.readEffect .gpio = s.setReg .intf 0x00#8 := rfl

/-- Bit by bit, a GPIO read returns the pin where it is an input and the latch where it is an output (R95). -/
theorem State.gpio_bit (s : State) (i : Nat) :
    getBit s.gpio i = if getBit (s.reg .iodir) i = true then getBit s.levels i else getBit (s.reg .olat) i := by
  unfold State.gpio getBit
  simp only [BitVec.getLsbD_or, BitVec.getLsbD_and, BitVec.getLsbD_not]
  by_cases hi : i < 8
  · cases h : (s.reg .iodir).getLsbD i <;> simp [hi]
  · have h (b : Byte) : b.getLsbD i = false := BitVec.getLsbD_of_ge b i (by omega)
    simp [h]

theorem getBit_putBit (b : Byte) (pos q : Nat) (level : Bool) (hp : pos < 8) (hq : q < 8) :
    getBit (putBit b pos level) q = if q = pos then level else getBit b q := by
  revert b
  cases level <;> interval_cases pos <;> interval_cases q <;> decide

/-- What an event on a pin can do: the pin, whether it is driven, and that pin's flag or none. -/
theorem State.movePin_eq (s : State) (i : Nat) (level driven flag : Bool) :
    s.movePin i level driven flag =
      { s with
        pin := putBit s.pin i level, undriven := putBit s.undriven i (!driven),
        mem := if flag then Memory.write s.mem Reg.intf.addr.toNat (putBit (s.reg .intf) i true) else s.mem } := by
  cases flag <;> rfl

/-- What `Press` and `Release` can do: the pin, whether it is driven, perhaps its flag, perhaps one free value drawn. -/
theorem State.press_cases (s : State) (b : Button) :
    ∃ p u m, s.press b = { s with pin := p, undriven := u, mem := m } ∧
      (m = s.mem ∨ m = Memory.write s.mem Reg.intf.addr.toNat (putBit (s.reg .intf) b.pin true)) := by
  refine ⟨_, _, _, State.movePin_eq _ _ _ _ _, ?_⟩
  split
  exacts [.inr rfl, .inl rfl]

theorem State.release_cases (s : State) (b : Button) :
    ∃ p u m d, s.release b = { s with pin := p, undriven := u, mem := m, draws := d } ∧
      (m = s.mem ∨ m = Memory.write s.mem Reg.intf.addr.toNat (putBit (s.reg .intf) b.pin true)) := by
  refine ⟨_, _, _, _, State.movePin_eq _ _ _ _ _, ?_⟩
  split
  exacts [.inr rfl, .inl rfl]

/-- R97: a release at a pin compared with the default 1 stores nothing. -/
theorem State.release_mem {s : State} {b : Button} (hi : getBit (s.reg .intcon) b.pin = true)
    (hd : getBit (s.reg .defval) b.pin = true) : (s.release b).mem = s.mem := by
  simp [State.release, State.releaseInterrupts, hi, hd, State.movePin]

end Sys2Proof.Machine
end

