-- ==== Sys2Proof/Laws/Ops.lean ====
section
/-! SUPPORT. One lemma per shared operation that says once what it can do: acceptance, the timers, the transport calls. -/

namespace Sys2Proof.Machine

/-- Acceptance: in S_READY the word is written to CMDR and the command starts; in every other state nothing happens. -/
theorem State.accept_cases (w : Byte) (f : State → State) (s : State) :
    (s.seq = .sReady ∧ s.accept w f = f { s with cmdr := w }) ∨ (s.seq ≠ .sReady ∧ s.accept w f = s) := by
  unfold State.accept
  by_cases h : s.seq = .sReady
  · exact .inl ⟨h, if_pos h⟩
  · exact .inr ⟨h, if_neg h⟩

theorem State.accept_ready {s : State} (h : s.seq = .sReady) (w : Byte) (f : State → State) :
    s.accept w f = f { s with cmdr := w } := if_pos h

theorem State.accept_other {s : State} (h : s.seq ≠ .sReady) (w : Byte) (f : State → State) : s.accept w f = s :=
  if_neg h

@[simp] theorem tickDown_zero : tickDown 0#16 = 0#16 := rfl

theorem tickDown_toNat (t : Ticks) : (tickDown t).toNat = t.toNat - 1 := by
  unfold tickDown
  split
  · rename_i h; simp [h]
  · rename_i h
    have h0 : t.toNat ≠ 0 := fun e => h (BitVec.eq_of_toNat_eq (by simpa using e))
    have h1 : (1#16).toNat = 1 := rfl
    have : t.toNat < 2 ^ 16 := t.isLt
    rw [BitVec.toNat_sub, h1]
    omega

theorem State.tick_cases (s : State) :
    (s.seq = .sHalt ∧ s.tick = s) ∨
      (s.seq ≠ .sHalt ∧ s.tick = { s with dbt := tickDown s.dbt, ht := tickDown s.ht }) := by
  unfold State.tick
  by_cases h : s.seq = .sHalt
  · exact .inl ⟨h, if_pos h⟩
  · exact .inr ⟨h, if_neg h⟩

/-- BUS.RD of a register the LDC reads, at its own device with the handle open, is a read call. -/
theorem exec_busRd {s : State} {r : Reg} (x : Byte) (hv : s.handleV = true) (hr : r.readable = true) :
    exec (.busRd s.cfgDev r.addr x) s = .next (s.readCall r) := by
  simp [exec, execBusRd, hv, hr]

/-- BUS.WR of a register the LDC writes, at its own device with the handle open, is a write call. -/
theorem exec_busWr {s : State} {r : Reg} (v : Byte) (hv : s.handleV = true) (hr : r.writable = true) :
    exec (.busWr s.cfgDev r.addr v) s = .next (s.writeCall r v) := by
  simp [exec, execBusWr, hv, hr]

/-- BUS.RD answers in one of these ways. -/
theorem execBusRd_cases (dev : DevAddr) (reg x : Byte) (s : State) :
    (s.handleV = false ∧ execBusRd dev reg x s = .next s) ∨
    (s.handleV = true ∧ dev ≠ s.cfgDev ∧ execBusRd dev reg x s = .refused (.otherDevice dev)) ∨
    (s.handleV = true ∧ dev = s.cfgDev ∧ Reg.ofAddr reg = none ∧
      execBusRd dev reg x s = .refused (.noSuchRegister reg)) ∨
    (s.handleV = true ∧ dev = s.cfgDev ∧ ∃ r, Reg.ofAddr reg = some r ∧ r.readable = true ∧
      execBusRd dev reg x s = .next (s.readCall r)) ∨
    (s.handleV = true ∧ dev = s.cfgDev ∧ ∃ r, Reg.ofAddr reg = some r ∧ r.readable = false ∧
      execBusRd dev reg x s = .refused (.readNotSpecified reg)) := by
  unfold execBusRd
  cases hv : s.handleV
  · simp
  · by_cases hd : dev = s.cfgDev
    · subst hd
      cases hr : Reg.ofAddr reg with
      | none => simp
      | some r => cases hq : r.readable <;> simp [hq]
    · simp [hd]

/-- BUS.WR answers in one of these ways. -/
theorem execBusWr_cases (dev : DevAddr) (reg v : Byte) (s : State) :
    (s.handleV = false ∧ execBusWr dev reg v s = .next s) ∨
    (s.handleV = true ∧ dev ≠ s.cfgDev ∧ execBusWr dev reg v s = .refused (.otherDevice dev)) ∨
    (s.handleV = true ∧ dev = s.cfgDev ∧ Reg.ofAddr reg = none ∧
      execBusWr dev reg v s = .refused (.noSuchRegister reg)) ∨
    (s.handleV = true ∧ dev = s.cfgDev ∧ ∃ r, Reg.ofAddr reg = some r ∧ r.writable = true ∧
      execBusWr dev reg v s = .next (s.writeCall r v)) ∨
    (s.handleV = true ∧ dev = s.cfgDev ∧ ∃ r, Reg.ofAddr reg = some r ∧ r.writable = false ∧
      execBusWr dev reg v s = .refused (.writeNotSpecified reg)) := by
  unfold execBusWr
  cases hv : s.handleV
  · simp
  · by_cases hd : dev = s.cfgDev
    · subst hd
      cases hr : Reg.ofAddr reg with
      | none => simp
      | some r => cases hq : r.writable <;> simp [hq]
    · simp [hd]

theorem answeredByte_eq_none {a : Answer} {r : Reg} {s : State} : answeredByte a r s = none ↔ a = .err := by
  cases a <;> simp [answeredByte]

/-- A read call is answered with a byte, or fails and halts. -/
theorem State.readCall_cases (r : Reg) (s : State) :
    (∃ v, answeredByte s.ans r s = some v ∧ s.ans ≠ .err ∧ s.readCall r = s.readOk r v) ∨
      (s.ans = .err ∧ s.readCall r = s.readErr r) := by
  unfold State.readCall
  cases h : s.ans <;> simp [answeredByte]

/-- A write call is answered ok, or fails and halts. -/
theorem State.writeCall_cases (r : Reg) (v : Byte) (s : State) :
    (s.ans ≠ .err ∧ s.writeCall r v = s.writeOk r v) ∨ (s.ans = .err ∧ s.writeCall r v = s.writeErr r v) := by
  unfold State.writeCall
  by_cases h : s.ans = .err
  · exact .inr ⟨h, if_pos h⟩
  · exact .inl ⟨h, if_neg h⟩

end Sys2Proof.Machine
end

