-- ==== Sys2Proof/Laws/Agents.lean ====
section
/-! SUPPORT. What a step of an agent can do, said once: the requests the agents issue, one transport call of an agent,
one step of each agent, one move. -/

namespace Sys2Proof.Machine

@[simp] theorem Result.andThen_next (t : State) (f : State → State) :
    Result.andThen (.next t) f = .next (f t) := rfl

/-- An agent's read answered with a byte. -/
theorem agentCall_read_ok {s : State} {r : Reg} {a : Answer} {v : Byte} (who : Agent) (fin : State → State)
    (hv : s.handleV = true) (hr : r.readable = true) (ha : answeredByte a r s = some v) :
    agentCall who (readRequest r s) a fin s = .next (fin (State.readOk r v { s with turn := who, ans := a })) := by
  have hne : a ≠ .err := fun e => by simp [answeredByte, e] at ha
  have hb : answeredByte a r { s with turn := who, ans := a } = some v := by
    rw [← ha]; cases a <;> rfl
  have := exec_busRd (s := { s with turn := who, ans := a }) 0x00#8 hv hr
  simp only [agentCall, readRequest]
  rw [this]
  simp [State.readCall, hb, hne]

/-- An agent's read answered err. -/
theorem agentCall_read_err {s : State} {r : Reg} (who : Agent) (fin : State → State)
    (hv : s.handleV = true) (hr : r.readable = true) :
    agentCall who (readRequest r s) .err fin s = .next (State.readErr r { s with turn := who, ans := .err }) := by
  have := exec_busRd (s := { s with turn := who, ans := .err }) 0x00#8 hv hr
  simp only [agentCall, readRequest]
  rw [this]
  simp [State.readCall, answeredByte]

/-- An agent's write answered ok. -/
theorem agentCall_write_ok {s : State} {r : Reg} {a : Answer} (v : Byte) (who : Agent) (fin : State → State)
    (hv : s.handleV = true) (hr : r.writable = true) (ha : a ≠ .err) :
    agentCall who (writeRequest r v s) a fin s = .next (fin (State.writeOk r v { s with turn := who, ans := a })) := by
  have := exec_busWr (s := { s with turn := who, ans := a }) v hv hr
  simp only [agentCall, writeRequest]
  rw [this]
  simp [State.writeCall, ha]

/-- An agent's write answered err. -/
theorem agentCall_write_err {s : State} {r : Reg} (v : Byte) (who : Agent) (fin : State → State)
    (hv : s.handleV = true) (hr : r.writable = true) :
    agentCall who (writeRequest r v s) .err fin s = .next (State.writeErr r v { s with turn := who, ans := .err }) := by
  have := exec_busWr (s := { s with turn := who, ans := .err }) v hv hr
  simp only [agentCall, writeRequest]
  rw [this]
  simp [State.writeCall]

/-- The open call of S_OPEN, answered ok. -/
theorem agentCall_open_ok {s : State} {a : Answer} (bus : Byte) (who : Agent) (fin : State → State)
    (hq : s.seq = .sOpen) (ha : a ≠ .err) :
    agentCall who (.busOpen bus) a fin s =
      .next (fin (State.log (.openBus bus true)
        { s with turn := who, ans := a, handleV := true, handleBus := bus })) := by
  simp [agentCall, exec, execBusOpen, hq, ha, State.log]

/-- The open call of S_OPEN, answered err. -/
theorem agentCall_open_err {s : State} (bus : Byte) (who : Agent) (fin : State → State) (hq : s.seq = .sOpen) :
    agentCall who (.busOpen bus) .err fin s =
      .next (State.raise .busOpenError 0x00#8
        (State.log (.openBus bus false) { s with turn := who, ans := .err })) := by
  simp [agentCall, exec, execBusOpen, hq, State.log]

/-- The requests of the sequencer: the open of S_OPEN, a read of INTF or GPIO, or a write of the access matrix (R82). -/
theorem seqRequest_cases {s : State} {i : Instr} (h : seqRequest s = some i) :
    (s.seq = .sOpen ∧ i = .busOpen s.cfgBus) ∨
    (s.seq ≠ .sOpen ∧ ∃ r, r.readable = true ∧ i = readRequest r s) ∨
    (s.seq ≠ .sOpen ∧ ∃ r v, r.writable = true ∧ Instr.wfWrite r.addr v = true ∧ i = writeRequest r v s) := by
  unfold seqRequest at h
  split at h <;> rename_i hq <;> try (cases h)
  · exact .inl ⟨hq, rfl⟩
  · exact .inr (.inl ⟨by simp [hq], .gpio, rfl, rfl⟩)
  · exact .inr (.inr ⟨by simp [hq], .gppu, _, rfl, by decide, rfl⟩)
  · exact .inr (.inr ⟨by simp [hq], .iodir, _, rfl, by decide, rfl⟩)
  · exact .inr (.inr ⟨by simp [hq], .olat, _, rfl, rfl, rfl⟩)
  · exact .inr (.inr ⟨by simp [hq], .gpinten, _, rfl, by decide, rfl⟩)
  · exact .inr (.inr ⟨by simp [hq], .defval, _, rfl, by decide, rfl⟩)
  · exact .inr (.inr ⟨by simp [hq], .intcon, _, rfl, by decide, rfl⟩)
  · exact .inr (.inl ⟨by simp [hq], .gpio, rfl, rfl⟩)
  · exact .inr (.inr ⟨by simp [hq], .olat, _, rfl, rfl, rfl⟩)
  · exact .inr (.inr ⟨by simp [hq], .olat, _, rfl, rfl, rfl⟩)
  · unfold exec1Request at h
    split at h <;> try (cases h)
    · exact .inr (.inl ⟨by simp [hq], .gpio, rfl, rfl⟩)
    · exact .inr (.inr ⟨by simp [hq], .olat, _, rfl, rfl, rfl⟩)
    · exact .inr (.inl ⟨by simp [hq], .gpio, rfl, rfl⟩)
    · exact .inr (.inl ⟨by simp [hq], .intf, rfl, rfl⟩)
    · exact .inr (.inl ⟨by simp [hq], .gpio, rfl, rfl⟩)
    · exact .inr (.inl ⟨by simp [hq], .intf, rfl, rfl⟩)
  · unfold exec2Request at h
    split at h <;> try (cases h)
    exact .inr (.inr ⟨by simp [hq], .olat, _, rfl, rfl, rfl⟩)

/-- An enabled transaction of the sequencer outside S_OPEN has the handle open. -/
theorem seqMayCall_handle {s : State} (h : seqMayCall s = true) (hq : s.seq ≠ .sOpen) : s.handleV = true := by
  unfold seqMayCall at h
  split at h <;> simp_all

/-- The requests of the monitor: a read of INTF in M_IDLE, a read of GPIO in M_CLEAR (R223, R227). -/
theorem monRequest_cases {s : State} {i : Instr} (h : monRequest s = some i) :
    (s.mon = .mIdle ∧ s.monEn = true ∧ i = readRequest .intf s) ∨ (s.mon = .mClear ∧ i = readRequest .gpio s) := by
  unfold monRequest at h
  split at h <;> rename_i hq <;> try (cases h)
  · cases hm : s.monEn <;> simp_all
  · exact .inr ⟨hq, rfl⟩

/-- One step of the sequencer: it holds, it ends a hold of the self-test flash, or it makes one transport call. -/
theorem seqStep_cases (a : Answer) (s : State) :
    seqStep a s = .next s ∨
    (s.seq = .sHoldOn ∧ s.ht = 0#16 ∧ seqStep a s = .next { s with seq := .sFlashOff }) ∨
    (s.seq = .sHoldOff ∧ s.ht = 0#16 ∧ seqStep a s = .next (s.respond 0x00#8)) ∨
    (∃ i, seqRequest s = some i ∧ seqMayCall s = true ∧
      seqStep a s = agentCall .sequencer i a seqFinish s) := by
  unfold seqStep
  split
  · rename_i hq
    by_cases h : s.ht = 0#16
    · exact .inr (.inl ⟨hq, h, by simp [h]⟩)
    · exact .inl (by simp [h])
  · rename_i hq
    by_cases h : s.ht = 0#16
    · exact .inr (.inr (.inl ⟨hq, h, by simp [h]⟩))
    · exact .inl (by simp [h])
  all_goals first
    | exact .inl rfl
    | (split
       · rename_i i hi
         cases hm : seqMayCall s
         · exact .inl rfl
         · exact .inr (.inr (.inr ⟨i, hi, rfl, rfl⟩))
       · exact .inl rfl)

/-- One step of the monitor: it holds, stops, ends the debounce, delivers the event, or makes one transport call. -/
theorem monStep_cases (a : Answer) (s : State) :
    monStep a s = .next s ∨
    (s.seq ≠ .sHalt ∧ s.mon = .mIdle ∧ s.monEn = false ∧ monStep a s = .next { s with mon := .mOff }) ∨
    (s.seq ≠ .sHalt ∧ s.mon = .mDebounce ∧ s.dbt = 0#16 ∧ monStep a s = .next { s with mon := .mClear }) ∨
    (s.seq ≠ .sHalt ∧ s.mon = .mDispatch ∧ s.evtReady = true ∧
      monStep a s = .next (State.emit s.evt { s with mon := .mIdle })) ∨
    (s.seq ≠ .sHalt ∧ ∃ i, monRequest s = some i ∧ monMayCall s = true ∧
      monStep a s = agentCall .monitor i a monFinish s) := by
  have hcall : monCall a s = .next s ∨ ∃ i, monRequest s = some i ∧ monMayCall s = true ∧
      monCall a s = agentCall .monitor i a monFinish s := by
    unfold monCall
    split
    · rename_i i hi
      cases hm : monMayCall s
      · exact .inl rfl
      · exact .inr ⟨i, hi, rfl, rfl⟩
    · exact .inl rfl
  by_cases hq : s.seq = .sHalt
  · exact .inl (by unfold monStep; rw [if_pos hq])
  · have hs : monStep a s = monLive a s := if_neg hq
    rw [hs]
    unfold monLive
    cases hm : s.mon
    · exact .inl rfl
    · cases he : s.monEn
      · exact .inr (.inl ⟨hq, rfl, rfl, rfl⟩)
      · simp only [cond_true]
        rcases hcall with h | ⟨i, hi, hc, h⟩
        · exact .inl h
        · exact .inr (.inr (.inr (.inr ⟨hq, i, hi, hc, h⟩)))
    · by_cases hd : s.dbt = 0#16
      · exact .inr (.inr (.inl ⟨hq, rfl, hd, by simp [hd]⟩))
      · exact .inl (by simp [hd])
    · rcases hcall with h | ⟨i, hi, hc, h⟩
      · exact .inl h
      · exact .inr (.inr (.inr (.inr ⟨hq, i, hi, hc, h⟩)))
    · cases he : s.evtReady
      · exact .inl rfl
      · exact .inr (.inr (.inr (.inl ⟨hq, rfl, rfl, rfl⟩)))

/-- An enabled transaction of the sequencer is taken. -/
theorem seqStep_call {s : State} {i : Instr} (a : Answer) (hi : seqRequest s = some i) (hm : seqMayCall s = true) :
    seqStep a s = agentCall .sequencer i a seqFinish s := by
  have h := hi
  unfold seqRequest at h
  unfold seqStep
  cases hq : s.seq <;> simp only [hq] at h ⊢ <;> first | (cases h; done) | simp [hi, hm]

/-- An enabled transaction of the monitor is taken. -/
theorem monStep_call {s : State} {i : Instr} (a : Answer) (hq : s.seq ≠ .sHalt) (hi : monRequest s = some i)
    (hm : monMayCall s = true) : monStep a s = agentCall .monitor i a monFinish s := by
  have hc : monCall a s = agentCall .monitor i a monFinish s := by simp [monCall, hi, hm]
  unfold monStep
  rw [if_neg hq]
  unfold monLive
  rcases monRequest_cases hi with ⟨h, he, _⟩ | ⟨h, _⟩
  · simp [h, he, hc]
  · simp [h, hc]

/-- What an answered read's byte depends on: the memory and the pins. -/
theorem answeredByte_congr {s t : State} (a : Answer) (r : Reg) (h : s.mem = t.mem) (hp : s.pin = t.pin)
    (hu : s.undriven = t.undriven) :
    answeredByte a r s = answeredByte a r t := by
  cases a <;> simp only [answeredByte]
  cases r <;> simp [State.rpmRead, State.reg_congr _ h, State.gpio_congr h hp hu]

/-- An answer other than err gives a byte. -/
theorem answeredByte_some {a : Answer} (h : a ≠ .err) (r : Reg) (s : State) : ∃ v, answeredByte a r s = some v := by
  cases a <;> simp_all [answeredByte]

/-- A read step of the sequencer, answered. -/
theorem runMove_seq_read {s : State} {r : Reg} {a : Answer} {v : Byte} (hi : seqRequest s = some (readRequest r s))
    (hm : seqMayCall s = true) (hv : s.handleV = true) (hr : r.readable = true) (ha : answeredByte a r s = some v) :
    runMove (.seq a) s = .next (seqFinish (State.readOk r v { s with turn := .sequencer, ans := a })) :=
  (seqStep_call a hi hm).trans (agentCall_read_ok .sequencer seqFinish hv hr ha)

/-- A write step of the sequencer, answered. -/
theorem runMove_seq_write {s : State} {r : Reg} {a : Answer} {v : Byte} (hi : seqRequest s = some (writeRequest r v s))
    (hm : seqMayCall s = true) (hv : s.handleV = true) (hr : r.writable = true) (ha : a ≠ .err) :
    runMove (.seq a) s = .next (seqFinish (State.writeOk r v { s with turn := .sequencer, ans := a })) :=
  (seqStep_call a hi hm).trans (agentCall_write_ok v .sequencer seqFinish hv hr ha)

/-- A read step of the monitor, answered. -/
theorem runMove_mon_read {s : State} {r : Reg} {a : Answer} {v : Byte} (hq : s.seq ≠ .sHalt)
    (hi : monRequest s = some (readRequest r s)) (hm : monMayCall s = true) (hv : s.handleV = true)
    (hr : r.readable = true) (ha : answeredByte a r s = some v) :
    runMove (.mon a) s = .next (monFinish (State.readOk r v { s with turn := .monitor, ans := a })) :=
  (monStep_call a hq hi hm).trans (agentCall_read_ok .monitor monFinish hv hr ha)

/-- A step runs the first move of the list on the state without it. -/
theorem step_cons {s : State} {m : Move} {rest : List Move} (h : s.inputs = m :: rest) :
    step s = runMove m { s with inputs := rest } := by
  simp [step, State.nextMove, h]

/-- A step runs some move on a state that differs from this one in the moves to come and the draws only. -/
theorem step_eq_runMove (s : State) : ∃ m rest d, step s = runMove m { s with inputs := rest, draws := d } := by
  unfold step State.nextMove
  cases h : s.inputs with
  | nil => exact ⟨Config.freeMove s.draws, [], s.draws + 1, by simp only [← h]⟩
  | cons m rest => exact ⟨m, rest, s.draws, rfl⟩

end Sys2Proof.Machine
end

