-- ==== Sys2Proof/Laws/PerInstr.lean ====
section
/-! SUPPORT. Statements made per instruction, one lemma per constructor of Instr. They are about the syntax alone. -/

namespace Sys2Proof.Laws

/-- A word as a number, least significant byte first. -/
def wordOf : List Byte → Nat
  | [] => 0
  | b :: rest => b.toNat + 2 ^ 8 * wordOf rest

/-- The mask and the match of the instruction's row of spec/opcode_table.json. -/
def tableRow : Instr → Nat × Nat
  | .init _ => (0xE0, 0x00)
  | .setled _ _ => (0xE0, 0x20)
  | .setleds _ _ => (0xE0, 0x40)
  | .getled _ _ => (0xE0, 0x60)
  | .pollbtn _ => (0xE0, 0x80)
  | .clrint _ => (0xE0, 0xA0)
  | .btnstate _ _ => (0xE0, 0xC0)
  | .monstart _ => (0xF0, 0xF0)
  | .monstop _ => (0xF0, 0xE0)
  | .busRd _ _ _ => (0x800000, 0x800000)
  | .busWr _ _ _ => (0x800000, 0x000000)
  | .busOpen _ => (0x00, 0x00)

/-- An encoding has as many bytes as its format. -/
def EncodedLength.Statement (i : Instr) : Prop := (encode i).length = i.format.bytes

/-- The encoded word has the fixed bits of its row of the opcode table. -/
def TableRow.Statement (i : Instr) : Prop := wordOf (encode i) &&& (tableRow i).1 = (tableRow i).2

theorem EncodedLength.init (x : BitVec 5) : EncodedLength.Statement (.init x) := rfl

theorem EncodedLength.setled (on : Bool) (p : BitVec 4) : EncodedLength.Statement (.setled on p) := rfl

theorem EncodedLength.setleds (on : Bool) (x : BitVec 4) : EncodedLength.Statement (.setleds on x) := rfl

theorem EncodedLength.getled (x : Bool) (p : BitVec 4) : EncodedLength.Statement (.getled x p) := rfl

theorem EncodedLength.pollbtn (x : BitVec 5) : EncodedLength.Statement (.pollbtn x) := rfl

theorem EncodedLength.clrint (x : BitVec 5) : EncodedLength.Statement (.clrint x) := rfl

theorem EncodedLength.btnstate (x : Bool) (p : BitVec 4) : EncodedLength.Statement (.btnstate x p) := rfl

theorem EncodedLength.monstart (x : BitVec 4) : EncodedLength.Statement (.monstart x) := rfl

theorem EncodedLength.monstop (x : BitVec 4) : EncodedLength.Statement (.monstop x) := rfl

theorem EncodedLength.busRd (dev : DevAddr) (reg x : Byte) : EncodedLength.Statement (.busRd dev reg x) := rfl

theorem EncodedLength.busWr (dev : DevAddr) (reg v : Byte) : EncodedLength.Statement (.busWr dev reg v) := rfl

theorem EncodedLength.busOpen (bus : Byte) : EncodedLength.Statement (.busOpen bus) := rfl

theorem TableRow.init (x : BitVec 5) : TableRow.Statement (.init x) := by
  unfold TableRow.Statement
  revert x; decide

theorem TableRow.setled (on : Bool) (p : BitVec 4) : TableRow.Statement (.setled on p) := by
  unfold TableRow.Statement
  revert on p; decide

theorem TableRow.setleds (on : Bool) (x : BitVec 4) : TableRow.Statement (.setleds on x) := by
  unfold TableRow.Statement
  revert on x; decide

theorem TableRow.getled (x : Bool) (p : BitVec 4) : TableRow.Statement (.getled x p) := by
  unfold TableRow.Statement
  revert x p; decide

theorem TableRow.pollbtn (x : BitVec 5) : TableRow.Statement (.pollbtn x) := by
  unfold TableRow.Statement
  revert x; decide

theorem TableRow.clrint (x : BitVec 5) : TableRow.Statement (.clrint x) := by
  unfold TableRow.Statement
  revert x; decide

theorem TableRow.btnstate (x : Bool) (p : BitVec 4) : TableRow.Statement (.btnstate x p) := by
  unfold TableRow.Statement
  revert x p; decide

theorem TableRow.monstart (x : BitVec 4) : TableRow.Statement (.monstart x) := by
  unfold TableRow.Statement
  revert x; decide

theorem TableRow.monstop (x : BitVec 4) : TableRow.Statement (.monstop x) := by
  unfold TableRow.Statement
  revert x; decide

/-- Bit 23 of a request word is the top bit of its high byte. -/
theorem wordOf_bit23 (lo mid : Byte) (hi : BitVec 8) :
    wordOf [lo, mid, hi] &&& 0x800000 = if 128 ≤ hi.toNat then 0x800000 else 0 := by
  have h (n : Nat) : n &&& 0x800000 = (n.testBit 23).toNat * 2 ^ 23 := Nat.and_two_pow n 23
  have h1 := lo.isLt
  have h2 := mid.isLt
  have h3 := hi.isLt
  have e : wordOf [lo, mid, hi] = lo.toNat + 2 ^ 8 * (mid.toNat + 2 ^ 8 * hi.toNat) := by simp [wordOf]
  have b : (wordOf [lo, mid, hi]).testBit 23 = decide (128 ≤ hi.toNat) := by
    rw [e, Nat.testBit_eq_decide_div_mod_eq]
    exact decide_eq_decide.mpr (by omega)
  rw [h, b]
  by_cases hh : 128 ≤ hi.toNat <;> simp [hh]

theorem TableRow.busRd (dev : DevAddr) (reg x : Byte) : TableRow.Statement (.busRd dev reg x) := by
  have h : ∀ d : DevAddr, 128 ≤ (1#1 ++ d).toNat := by decide
  exact (wordOf_bit23 x reg (1#1 ++ dev)).trans (if_pos (h dev))

theorem TableRow.busWr (dev : DevAddr) (reg v : Byte) : TableRow.Statement (.busWr dev reg v) := by
  have h : ∀ d : DevAddr, ¬ 128 ≤ (0#1 ++ d).toNat := by decide
  exact (wordOf_bit23 v reg (0#1 ++ dev)).trans (if_neg (h dev))

theorem TableRow.busOpen (bus : Byte) : TableRow.Statement (.busOpen bus) := Nat.and_zero _

end Sys2Proof.Laws
end

