-- ==== Sys2Proof/Laws/Runs.lean ====
section
/-! SUPPORT. Runs of several moves, and what one move can do, said once per kind of move: a proof about every step splits
on these cases and unfolds no step. -/

namespace Sys2Proof.Machine

/-! ### Runs -/

theorem runMoves_cons {m : Move} {s t : State} (ms : List Move) (h : runMove m s = .next t) :
    runMoves (m :: ms) s = runMoves ms t := by simp [runMoves, h]

/-- A run that completes completes its first move. -/
theorem runMoves_of_cons {m : Move} {ms : List Move} {s u : State} (h : runMoves (m :: ms) s = .next u) :
    ∃ t, runMove m s = .next t ∧ runMoves ms t = .next u := by
  unfold runMoves at h
  cases hm : runMove m s with
  | next t => rw [hm] at h; exact ⟨t, rfl, h⟩
  | fault e => rw [hm] at h; cases h
  | refused e => rw [hm] at h; cases h

theorem runMoves_append {a : List Move} (b : List Move) {s t : State} (h : runMoves a s = .next t) :
    runMoves (a ++ b) s = runMoves b t := by
  induction a generalizing s with
  | nil => cases h; rfl
  | cons m a ih =>
    obtain ⟨u, hu, ha⟩ := runMoves_of_cons h
    exact (runMoves_cons _ hu).trans (ih ha)

/-- `n` ticks move the two timers and nothing else. -/
theorem runMoves_ticks (n : Nat) {s : State} (h : s.seq ≠ .sHalt) :
    ∃ d t, runMoves (List.replicate n .tick) s = .next { s with dbt := d, ht := t } ∧
      d.toNat = s.dbt.toNat - n ∧ t.toNat = s.ht.toNat - n := by
  induction n generalizing s with
  | zero => exact ⟨s.dbt, s.ht, rfl, rfl, rfl⟩
  | succ n ih =>
    have e : runMove .tick s = .next { s with dbt := tickDown s.dbt, ht := tickDown s.ht } :=
      congrArg _ (if_neg h)
    obtain ⟨d, t, hr, hd, ht⟩ := ih (s := { s with dbt := tickDown s.dbt, ht := tickDown s.ht }) h
    refine ⟨d, t, (runMoves_cons _ e).trans hr, ?_, ?_⟩
    · rw [hd, tickDown_toNat]; omega
    · rw [ht, tickDown_toNat]; omega

theorem everyStep_append {P : State → Move → State → Prop} {a b : List Move} {s t : State}
    (h : everyStep P (a ++ b) s) (hr : runMoves a s = .next t) : everyStep P a s ∧ everyStep P b t := by
  induction a generalizing s with
  | nil => cases hr; exact ⟨trivial, h⟩
  | cons m a ih =>
    obtain ⟨u, hu, ha⟩ := runMoves_of_cons hr
    refine ⟨fun v hv => ?_, (ih (h u hu).2 ha).2⟩
    rw [hu] at hv; cases hv
    exact ⟨(h u hu).1, (ih (h u hu).2 ha).1⟩

/-! ### One move -/

/-- An offered word: INIT accepted, not accepted, a command that goes on to S_EXEC1, an invalid pin, MON START or MON STOP
(R127, R151, R183, R202, R220). -/
theorem runMove_offer_cases (w : Byte) (s : State) :
    (s.seq = .sReset ∧ opField w = 0b000#3 ∧ runMove (.offer w) s =
      .next { s with cmdr := w, cfgBus := Config.busNum, cfgDev := Config.devAddr, seq := .sOpen }) ∨
    runMove (.offer w) s = .next s ∨
    (s.seq = .sReady ∧ executes (decodeCommand w) = true ∧
      runMove (.offer w) s = .next { s with cmdr := w, seq := .sExec1 }) ∨
    (s.seq = .sReady ∧ ∃ e, e ≠ .none ∧ runMove (.offer w) s = .next (State.raise e w { s with cmdr := w })) ∨
    (s.seq = .sReady ∧ runMove (.offer w) s = .next (State.respond 0x00#8
      { s with cmdr := w, monEn := true, mon := if s.mon = .mOff then .mIdle else s.mon })) ∨
    (s.seq = .sReady ∧ runMove (.offer w) s = .next (State.respond 0x00#8 { s with cmdr := w, monEn := false })) := by
  have hw := (by decide : ∀ w : Byte, commandWord (decodeCommand w) = w) w
  have hop := (by decide : ∀ w : Byte,
    (match decodeCommand w with | .init _ => true | _ => false) = true → opField w = 0b000#3) w
  have hno := (by decide : ∀ w : Byte, ¬(match decodeCommand w with
    | .busRd _ _ _ => true | .busWr _ _ _ => true | .busOpen _ => true | _ => false) = true) w
  simp only [runMove]
  by_cases hr : s.seq = .sReady
  · cases hi : decodeCommand w <;> rw [hi] at hw hop hno <;>
      simp only [exec, execInit, execSetled, execSetleds, execGetled, execPollbtn, execClrint, execBtnstate,
        execMonstart, execMonstop, State.accept_ready hr, hw, State.checkLed] <;>
      simp [hr, executes] at *
    · rename_i p; cases isLed p <;> simp
      exact .inr (.inl ⟨_, by decide, rfl⟩)
    · rename_i p; cases isLed p <;> simp
      exact .inr (.inl ⟨_, by decide, rfl⟩)
    · rename_i p; cases isSw p <;> simp
      exact .inr (.inl ⟨_, by decide, rfl⟩)
  · by_cases h0 : s.seq = .sReset
    · cases hi : decodeCommand w <;> rw [hi] at hw hop hno <;>
        simp [exec, execInit, execSetled, execSetleds, execGetled, execPollbtn, execClrint, execBtnstate, execMonstart,
          execMonstop, State.accept_other hr, hw, h0] at *
      exact .inl hop
    · refine .inr (.inl ?_)
      cases hi : decodeCommand w <;> rw [hi] at hw hop hno <;>
        simp [exec, execInit, execSetled, execSetleds, execGetled, execPollbtn, execClrint, execBtnstate, execMonstart,
          execMonstop, State.accept_other hr, h0] at *

/-- A granted step of the sequencer: it holds, ends a hold of the flash, or opens, reads or writes, answered err or ok. -/
theorem runMove_seq_cases {a : Answer} {s t : State} (h : runMove (.seq a) s = .next t) :
    t = s ∨ (s.seq = .sHoldOn ∧ t = { s with seq := .sFlashOff }) ∨ (s.seq = .sHoldOff ∧ t = s.respond 0x00#8) ∨
    (s.seq = .sOpen ∧ a = .err ∧ t = State.raise .busOpenError 0x00#8
      (State.log (.openBus s.cfgBus false) { s with turn := .sequencer, ans := .err })) ∨
    (s.seq = .sOpen ∧ a ≠ .err ∧ t = seqFinish (State.log (.openBus s.cfgBus true)
      { s with turn := .sequencer, ans := a, handleV := true, handleBus := s.cfgBus })) ∨
    (s.handleV = true ∧ s.seq ≠ .sOpen ∧ seqMayCall s = true ∧
      ∃ r, r.readable = true ∧ seqRequest s = some (readRequest r s) ∧
        ((a = .err ∧ t = State.readErr r { s with turn := .sequencer, ans := .err }) ∨
         ∃ v, answeredByte a r s = some v ∧
          t = seqFinish (State.readOk r v { s with turn := .sequencer, ans := a }))) ∨
    (s.handleV = true ∧ s.seq ≠ .sOpen ∧ seqMayCall s = true ∧
      ∃ r v, r.writable = true ∧ Instr.wfWrite r.addr v = true ∧ seqRequest s = some (writeRequest r v s) ∧
        ((a = .err ∧ t = State.writeErr r v { s with turn := .sequencer, ans := .err }) ∨
         (a ≠ .err ∧ t = seqFinish (State.writeOk r v { s with turn := .sequencer, ans := a })))) := by
  simp only [runMove] at h
  rcases seqStep_cases a s with e | ⟨hq, _, e⟩ | ⟨hq, _, e⟩ | ⟨i, hi, hc, e⟩ <;> rw [e] at h
  · cases h; exact .inl rfl
  · cases h; exact .inr (.inl ⟨hq, rfl⟩)
  · cases h; exact .inr (.inr (.inl ⟨hq, rfl⟩))
  · rcases seqRequest_cases hi with ⟨hq, rfl⟩ | ⟨hq, r, hr, rfl⟩ | ⟨hq, r, v, hr, hw, rfl⟩
    · by_cases ha : a = .err
      · subst ha; rw [agentCall_open_err _ _ _ hq] at h; cases h
        exact .inr (.inr (.inr (.inl ⟨hq, rfl, rfl⟩)))
      · rw [agentCall_open_ok _ _ _ hq ha] at h; cases h
        exact .inr (.inr (.inr (.inr (.inl ⟨hq, ha, rfl⟩))))
    · have hv := seqMayCall_handle hc hq
      refine .inr (.inr (.inr (.inr (.inr (.inl ⟨hv, hq, hc, r, hr, hi, ?_⟩)))))
      by_cases ha : a = .err
      · subst ha; rw [agentCall_read_err _ _ hv hr] at h; cases h; exact .inl ⟨rfl, rfl⟩
      · obtain ⟨v, hb⟩ := answeredByte_some ha r s
        rw [agentCall_read_ok _ _ hv hr hb] at h; cases h; exact .inr ⟨v, hb, rfl⟩
    · have hv := seqMayCall_handle hc hq
      refine .inr (.inr (.inr (.inr (.inr (.inr ⟨hv, hq, hc, r, v, hr, hw, hi, ?_⟩)))))
      by_cases ha : a = .err
      · subst ha; rw [agentCall_write_err _ _ _ hv hr] at h; cases h; exact .inl ⟨rfl, rfl⟩
      · rw [agentCall_write_ok _ _ _ hv hr ha] at h; cases h; exact .inr ⟨ha, rfl⟩

/-- A granted step of the monitor: it holds, stops, ends the debounce, delivers, or reads, answered err or ok. -/
theorem runMove_mon_cases {a : Answer} {s t : State} (h : runMove (.mon a) s = .next t) :
    t = s ∨ (s.mon = .mIdle ∧ t = { s with mon := .mOff }) ∨
    (s.mon = .mDebounce ∧ s.dbt = 0#16 ∧ t = { s with mon := .mClear }) ∨
    (s.mon = .mDispatch ∧ t = State.emit s.evt { s with mon := .mIdle }) ∨
    (s.seq ≠ .sHalt ∧ s.handleV = true ∧ s.lock = .free ∧
      ∃ r, ((s.mon = .mIdle ∧ r = .intf) ∨ (s.mon = .mClear ∧ r = .gpio)) ∧
        ((a = .err ∧ t = State.readErr r { s with turn := .monitor, ans := .err }) ∨
         ∃ v, answeredByte a r s = some v ∧
          t = monFinish (State.readOk r v { s with turn := .monitor, ans := a }))) := by
  simp only [runMove] at h
  rcases monStep_cases a s with e | ⟨_, hq, _, e⟩ | ⟨_, hq, hz, e⟩ | ⟨_, hq, _, e⟩ | ⟨hq, i, hi, hc, e⟩ <;>
    rw [e] at h
  · cases h; exact .inl rfl
  · cases h; exact .inr (.inl ⟨hq, rfl⟩)
  · cases h; exact .inr (.inr (.inl ⟨hq, hz, rfl⟩))
  · cases h; exact .inr (.inr (.inr (.inl ⟨hq, rfl⟩)))
  · obtain ⟨hv, hl⟩ : s.handleV = true ∧ s.lock = .free := by simpa [monMayCall] using hc
    obtain ⟨r, hr, rfl, hk⟩ : ∃ r, r.readable = true ∧ i = readRequest r s ∧
        ((s.mon = .mIdle ∧ r = .intf) ∨ (s.mon = .mClear ∧ r = .gpio)) := by
      rcases monRequest_cases hi with ⟨hx, _, rfl⟩ | ⟨hx, rfl⟩
      · exact ⟨_, rfl, rfl, .inl ⟨hx, rfl⟩⟩
      · exact ⟨_, rfl, rfl, .inr ⟨hx, rfl⟩⟩
    refine .inr (.inr (.inr (.inr ⟨hq, hv, hl, r, hk, ?_⟩)))
    by_cases ha : a = .err
    · subst ha; rw [agentCall_read_err _ _ hv hr] at h; cases h; exact .inl ⟨rfl, rfl⟩
    · obtain ⟨v, hb⟩ := answeredByte_some ha r s
      rw [agentCall_read_ok _ _ hv hr hb] at h; cases h; exact .inr ⟨v, hb, rfl⟩

end Sys2Proof.Machine
end

