-- ==== Sys2Proof/Tests/Slice0.lean ====
section
/-! SUPPORT. The model's own tests: the well-formedness checks refuse ill-formed terms, words written out from the
spec's encodings decode to their instructions, single steps from the spec's vectors (95_test_vectors.md), and for every
statement with hypotheses a concrete state and operands that meet them. -/

namespace Sys2Proof.Tests

open Machine

/-! ### Well-formedness: one ill-formed term for each check -/

/-- R82: IODIR is not read. -/
theorem test_wf_refuses_read_register : ¬(Instr.busRd 0x20#7 0x00#8 0x00#8).WellFormed := by decide

/-- R76: the wdata of a read is 0x00. -/
theorem test_wf_refuses_read_wdata : ¬(Instr.busRd 0x20#7 0x09#8 0x01#8).WellFormed := by decide

/-- R82: INTF is not written. -/
theorem test_wf_refuses_write_register : ¬(Instr.busWr 0x20#7 0x07#8 0xC0#8).WellFormed := by decide

/-- R154: GPPU is written with CFG_BTN only. -/
theorem test_wf_refuses_write_value : ¬(Instr.busWr 0x20#7 0x06#8 0x3F#8).WellFormed := by decide

/-- R117, V-D3: ignored fields, illegal pins and the requests of the LDC are well formed. -/
theorem test_wf_accepts :
    (Instr.init 31#5).WellFormed ∧ (Instr.setled true 15#4).WellFormed ∧
    (Instr.busRd 0x7F#7 0x09#8 0x00#8).WellFormed ∧ (Instr.busWr 0x20#7 0x0A#8 0xFE#8).WellFormed := by decide

/-! ### Decoding: words written out bit by bit from the encodings of the opcode table -/

/-- `000xxxxx` with x = 00101. -/
theorem test_decode_init : decodeTableWord 8 0b00000101 = some (.init 0b00101#5) := by decide

/-- `001spppp` with s = 1, p = 0101 (V-D1, 0x35). -/
theorem test_decode_setled : decodeTableWord 8 0b00110101 = some (.setled true 0b0101#4) := by decide

/-- `010sxxxx` with s = 0, x = 1010 (V-D1, 0x4A). -/
theorem test_decode_setleds : decodeTableWord 8 0b01001010 = some (.setleds false 0b1010#4) := by decide

/-- `011xpppp` with x = 1, p = 0101 (V-D1, 0x75). -/
theorem test_decode_getled : decodeTableWord 8 0b01110101 = some (.getled true 0b0101#4) := by decide

/-- `100xxxxx` with x = 11100 (V-D1, 0x9C). -/
theorem test_decode_pollbtn : decodeTableWord 8 0b10011100 = some (.pollbtn 0b11100#5) := by decide

/-- `101xxxxx` with x = 11111 (V-D1, 0xBF). -/
theorem test_decode_clrint : decodeTableWord 8 0b10111111 = some (.clrint 0b11111#5) := by decide

/-- `110xpppp` with x = 1, p = 0111 (V-D1, 0xD7). -/
theorem test_decode_btnstate : decodeTableWord 8 0b11010111 = some (.btnstate true 0b0111#4) := by decide

/-- `1111xxxx` with x = 0010. -/
theorem test_decode_monstart : decodeTableWord 8 0b11110010 = some (.monstart 0b0010#4) := by decide

/-- `1110xxxx` with x = 0111 (V-D1, 0xE7). -/
theorem test_decode_monstop : decodeTableWord 8 0b11100111 = some (.monstop 0b0111#4) := by decide

/-- `1dddddddrrrrrrrrxxxxxxxx` with d = 0100000, r = 00001001, x = 0 (V-D3, 0xA00900). -/
theorem test_decode_busRd :
    decodeTableWord 24 0b101000000000100100000000 = some (.busRd 0b0100000#7 0b00001001#8 0#8) := by decide

/-- `0dddddddrrrrrrrrvvvvvvvv` with d = 0100000, r = 00001010, v = 11111110 (V-D3, 0x200AFE). -/
theorem test_decode_busWr :
    decodeTableWord 24 0b001000000000101011111110 = some (.busWr 0b0100000#7 0b00001010#8 0b11111110#8) := by decide

/-- `bbbbbbbb` with b = 00000001, at the open port. -/
theorem test_decode_busOpen : decode .openReq8 [0b00000001#8] = .ok (.busOpen 0b00000001#8) := by decide

/-- Strings of another length than the format's are refused by name. -/
theorem test_decode_refuses :
    decode .cmd8 [] = .error (.wrongLength .cmd8 0) ∧
    decode .busReq24 [0x00#8, 0x09#8] = .error (.wrongLength .busReq24 2) := by decide

/-! ### Single steps -/

/-- The state of a step that answers next. -/
def stateOf (r : Result) : Option State :=
  match r with
  | .next t => some t
  | .fault _ => none
  | .refused _ => none

/-- The expander after INIT with the buttons released ("RPM-init"). -/
def readyMem : List Host.Cell :=
  [(0x00, 0xC0#8), (0x02, 0xC0#8), (0x03, 0xC0#8), (0x04, 0xC0#8), (0x06, 0xC0#8), (0x07, 0x00#8),
    (0x0A, 0x3F#8)].foldl (fun m c => Memory.write m c.1 c.2) []

/-- A state ready for a command: handle open, expander as INIT leaves it. -/
def ready : State :=
  { State.reset with
    seq := .sReady, handleV := true, cfgDev := 0x20#7, mem := readyMem, trace := [.openBus 0x01#8 true] }

/-- The sequencer in S_EXEC1 with a command in CMDR. -/
def executing (w : Byte) : State := { ready with seq := .sExec1, cmdr := w }

/-- SETLED LED1, ON between its two transactions (V-X1). -/
def writing : State := { ready with seq := .sExec2, lock := .host, cmdr := 0x30#8, tmp := 0xFF#8 }

/-- The monitor in a state of its own, the sequencer ready. -/
def watching (m : Mon) (e : Event) (d : Ticks) : State := { ready with mon := m, monEn := true, evt := e, dbt := d }

/-- R151, V-I1: INIT accepted after reset. -/
theorem test_init_accepted :
    (stateOf (exec (.init 0#5) State.reset)).map (fun t => (t.seq, t.cmdr)) = some (.sOpen, 0x00#8) := by decide

/-- V-I4: INIT offered in S_READY is not accepted. -/
theorem test_init_not_accepted : exec (.init 0#5) ready = .next ready := rfl

/-- V-E1: SETLED SW1, ON (0x36). -/
theorem test_setled_invalid_pin :
    (stateOf (exec (.setled true 6#4) ready)).map (fun t => (t.seq, t.err, t.errInfo, t.trace)) =
      some (.sHalt, .invalidPinError, 0x36#8, ready.trace) := by decide

/-- V-L1: the write of SETLED LED1, ON after a read of 0xFF. -/
theorem test_setled_write :
    (stateOf (runMove (.seq (.ok 0#8)) writing)).map (fun t => (t.seq, t.lock, t.rsp, t.trace)) =
      some (.sReady, .free, 0x00#8, ready.trace ++ [.wr 0x0A#8 0xFE#8 true]) := by decide

/-- V-L6: SETLEDS ON (0x50) writes 0x00. -/
theorem test_setleds_on :
    (stateOf (runMove (.seq (.ok 0#8)) (executing 0x50#8))).map (fun t => (t.seq, t.trace)) =
      some (.sReady, ready.trace ++ [.wr 0x0A#8 0x00#8 true]) := by decide

/-- V-L7: SETLEDS OFF (0x40) writes 0x3F. -/
theorem test_setleds_off :
    (stateOf (runMove (.seq (.ok 0#8)) (executing 0x40#8))).map (fun t => (t.seq, t.trace)) =
      some (.sReady, ready.trace ++ [.wr 0x0A#8 0x3F#8 true]) := by decide

/-- V-L1: GETLED LED1 (0x60) after a read of 0xFE answers 0x01. -/
theorem test_getled_on :
    (stateOf (runMove (.seq (.ok 0xFE#8)) (executing 0x60#8))).map (fun t => (t.rsp, t.trace)) =
      some (0x01#8, ready.trace ++ [.rd 0x09#8 (some 0xFE#8)]) := by decide

/-- V-E4: GETLED of pin 9 (0x69). -/
theorem test_getled_invalid_pin :
    (stateOf (exec (.getled false 9#4) ready)).map (fun t => (t.seq, t.err, t.errInfo)) =
      some (.sHalt, .invalidPinError, 0x69#8) := by decide

/-- V-K1: POLLBTN with INTF 0xC0 answers SW1. -/
theorem test_pollbtn_both :
    (stateOf (runMove (.seq (.ok 0xC0#8)) (executing 0x80#8))).map (fun t => (t.rsp, t.trace)) =
      some (0x01#8, ready.trace ++ [.rd 0x07#8 (some 0xC0#8)]) := by decide

/-- V-K8: POLLBTN with INTF 0x3F answers none. -/
theorem test_pollbtn_other_bits :
    (stateOf (runMove (.seq (.ok 0x3F#8)) (executing 0x80#8))).map (fun t => t.rsp) = some 0x00#8 := by decide

/-- V-K7: CLRINT. -/
theorem test_clrint :
    (stateOf (runMove (.seq (.ok 0xFF#8)) (executing 0xA0#8))).map (fun t => (t.rsp, t.trace)) =
      some (0x00#8, ready.trace ++ [.rd 0x09#8 (some 0xFF#8)]) := by decide

/-- V-K5: BTNSTATE SW1 and SW2 with INTF = 0x80. -/
theorem test_btnstate :
    (stateOf (runMove (.seq (.ok 0x80#8)) (executing 0xC6#8))).map (fun t => t.rsp) = some 0x00#8 ∧
    (stateOf (runMove (.seq (.ok 0x80#8)) (executing 0xC7#8))).map (fun t => t.rsp) = some 0x01#8 := by decide

/-- V-E5: BTNSTATE LED1 (0xC0). -/
theorem test_btnstate_invalid_button :
    (stateOf (exec (.btnstate false 0#4) ready)).map (fun t => (t.seq, t.err, t.errInfo)) =
      some (.sHalt, .invalidButtonError, 0xC0#8) := by decide

/-- V-M1: MON START (0xF0). -/
theorem test_monstart :
    (stateOf (exec (.monstart 0#4) ready)).map (fun t => (t.mon, t.monEn, t.responses, t.trace)) =
      some (.mIdle, true, [0x00#8], ready.trace) := by decide

/-- V-M7: MON STOP (0xE0) during the debounce does not interrupt it. -/
theorem test_monstop :
    (stateOf (exec (.monstop 0#4) (watching .mDebounce .sw1 321#16))).map (fun t => (t.mon, t.monEn, t.dbt)) =
      some (.mDebounce, false, 321#16) := by decide

/-- V-I5: the probe read answered err. -/
theorem test_busRd_probe_err :
    (stateOf (runMove (.seq .err) { ready with seq := .sProbe })).map (fun t => (t.seq, t.err, t.errInfo)) =
      some (.sHalt, .deviceNotFoundError, 0x09#8) := by decide

/-- V-E7: the read of SETLED answered err; no write, TMP unchanged, LOCK free. -/
theorem test_busRd_err :
    (stateOf (runMove (.seq .err) (executing 0x30#8))).map (fun t => (t.err, t.errInfo, t.tmp, t.lock, t.trace)) =
      some (.transportError, 0x09#8, 0x00#8, .free, ready.trace ++ [.rd 0x09#8 none]) := by decide

/-- V-I5: the IODIR write answered err. -/
theorem test_busWr_err :
    (stateOf (runMove (.seq .err) { ready with seq := .sDir })).map (fun t => (t.seq, t.err, t.errInfo)) =
      some (.sHalt, .transportError, 0x00#8) := by decide

/-- R154: the GPPU write of INIT. -/
theorem test_busWr_pullup :
    (stateOf (runMove (.seq (.ok 0#8)) { ready with seq := .sPullup })).map (fun t => (t.seq, t.trace)) =
      some (.sDir, ready.trace ++ [.wr 0x06#8 0xC0#8 true]) := by decide

/-- P5d: `open` answered err. -/
theorem test_busOpen_err :
    (stateOf (runMove (.seq .err) { State.reset with seq := .sOpen, cfgBus := 0x01#8 })).map
        (fun t => (t.seq, t.err, t.errInfo, t.trace)) =
      some (.sHalt, .busOpenError, 0x00#8, [.openBus 0x01#8 false]) := by decide

/-- R152: `open` answered ok. -/
theorem test_busOpen_ok :
    (stateOf (runMove (.seq (.ok 0#8)) { State.reset with seq := .sOpen, cfgBus := 0x01#8 })).map
        (fun t => (t.seq, t.handleV, t.handleBus, t.trace)) =
      some (.sProbe, true, 0x01#8, [.openBus 0x01#8 true]) := by decide

/-- V-M3: the poll that finds SW2. -/
theorem test_monitor_detects :
    (stateOf (runMove (.mon (.ok 0x80#8)) (watching .mIdle .none 0#16))).map (fun t => (t.mon, t.evt, t.dbt)) =
      some (.mDebounce, .sw2, 500#16) := by decide

/-- V-X1: reset between the transactions of SETLED. -/
theorem test_reset_in_setled :
    (stateOf (runMove .reset writing)).map (fun t => (t.seq, t.lock, t.tmp, t.cmdr, t.responses)) =
      some (.sReset, .free, 0x00#8, 0x00#8, []) := by decide

/-- V-C1b: GPIO reads 0x3F with the pins at 0 and RPM-init's latch. -/
theorem test_gpio_reads_latch_and_pins :
    State.gpio { State.reset with pin := 0x00#8, mem := [(0x00, 0xC0#8), (0x06, 0x00#8), (0x0A, 0x3F#8)] } = 0x3F#8 := by decide

/-- R86: a button released before GPPU is written reads 1 as soon as GPPU is 0xC0, an undriven pin not pulled up its own
level. -/
theorem test_pull_up_raises_an_undriven_pin :
    State.levels { State.reset with pin := 0x80#8, undriven := 0x40#8, mem := [(0x06, 0xC0#8)] } = 0xC0#8 ∧
    State.levels { State.reset with pin := 0x80#8, undriven := 0x40#8, mem := [(0x06, 0x80#8)] } = 0x80#8 := by decide

/-- R97: no flag on a release with INTCON[i] = DEFVAL[i] = 1, whatever GPPU holds. -/
theorem test_release_sets_no_flag_at_default :
    let s : State := { State.reset with mem := [(0x03, 0xC0#8), (0x04, 0xC0#8), (0x06, 0x80#8)] }
    s.releaseInterrupts .sw1 = false ∧ s.releaseInterrupts .sw2 = false := by decide

/-- R263, R260: a GPIO read answered err leaves the expander. -/
theorem test_failed_read_keeps_expander :
    (stateOf (runMove (.seq .err) (executing 0xA0#8))).map (fun t => t.mem) = some readyMem := rfl

/-! ### Witnesses: for each statement with hypotheses, a state and operands that meet them all -/

theorem readyMem_wf : Memory.wf readyMem := by
  refine (?_ : ∀ (l m : List Host.Cell), Memory.wf m → Memory.wf (l.foldl (fun m c => Memory.write m c.1 c.2) m))
    _ [] ⟨by simp, by simp⟩
  intro l
  induction l with
  | nil => exact fun _ h => h
  | cons c l ih => exact fun m h => ih _ (Memory.write_wf m c.1 c.2 h)

theorem readyMem_addresses : ∀ c ∈ readyMem, storesAt c.1 := by
  have h : ∀ (l m : List Host.Cell), (∀ c ∈ l, storesAt c.1) → (∀ c ∈ m, storesAt c.1) →
      ∀ c ∈ l.foldl (fun m c => Memory.write m c.1 c.2) m, storesAt c.1 := by
    intro l
    induction l with
    | nil => exact fun _ _ h => h
    | cons d l ih =>
      intro m hl hm
      refine ih _ (fun c hc => hl c (by simp [hc])) fun c hc => ?_
      rcases Memory.mem_write m d.1 d.2 c hc with ⟨rfl, _⟩ | hc
      · exact hl d (by simp)
      · exact hm c hc
  refine h _ [] ?_ (by simp)
  intro c hc
  simp only [List.mem_cons, List.not_mem_nil, or_false] at hc
  rcases hc with rfl | rfl | rfl | rfl | rfl | rfl | rfl
  exacts [⟨.iodir, by decide, rfl⟩, ⟨.gpinten, by decide, rfl⟩, ⟨.defval, by decide, rfl⟩,
    ⟨.intcon, by decide, rfl⟩, ⟨.gppu, by decide, rfl⟩, ⟨.intf, by decide, rfl⟩, ⟨.olat, by decide, rfl⟩]

theorem memInv_ready {s : State} (h : s.mem = readyMem) : MemInv s :=
  ⟨h ▸ readyMem_wf, h ▸ readyMem_addresses⟩

theorem memInv_reset : MemInv State.reset := ⟨⟨by simp [State.reset], by simp [State.reset]⟩, by simp [State.reset]⟩

theorem legal_ready : Legal ready :=
  ⟨by constructor <;> decide, memInv_ready rfl, by constructor <;> decide⟩

theorem legal_writing : Legal writing :=
  ⟨by constructor <;> decide, memInv_ready rfl, by constructor <;> decide⟩

/-- Reading an address of `readyMem`: the last store to it. -/
theorem readyMem_read (a : Nat) :
    Memory.read readyMem a =
      if a = 0x0A then 0x3F#8 else if a = 0x07 then 0x00#8 else if a = 0x06 then 0xC0#8 else if a = 0x04 then 0xC0#8
      else if a = 0x03 then 0xC0#8 else if a = 0x02 then 0xC0#8 else if a = 0x00 then 0xC0#8
      else Memory.unlisted a := by
  have h (m : List Host.Cell) (b : Nat) (v : Byte) (hm : Memory.wf m) :
      Memory.read (Memory.write m b v) a = if a = b then v else Memory.read m a := by
    by_cases e : a = b
    · rw [if_pos e, e]; exact Memory.read_write_same m b v hm
    · rw [if_neg e]; exact Memory.read_write_other m b a v e
  have w0 : Memory.wf [] := ⟨by simp, by simp⟩
  simp only [readyMem, List.foldl]
  repeat rw [h _ _ _ (by repeat first | exact w0 | apply Memory.write_wf)]
  rfl

theorem configured_ready : Configured ready := by
  constructor <;> exact (readyMem_read _).trans rfl

/-- R315 `NoPress`, R97: after INIT a release raises no flag. -/
theorem test_release_is_no_press : ∀ b : Button, NoPress [.release b] ready := by
  intro b t ht; cases ht
  have c := configured_ready
  exact ⟨fun _ => congrArg (Memory.read · 0x07)
    (State.release_mem (by rw [c.intcon]; cases b <;> rfl) (by rw [c.defval]; cases b <;> rfl)), trivial⟩

/-- R315 `NoPress`, R98: a SetFlag that raises a flag is excluded. -/
theorem test_setFlag_is_a_press : ¬NoPress [.setFlag 0x40#8] ready := by
  intro h
  have e : ready.reg .intf ||| 0x40#8 = ready.reg .intf :=
    (Memory.read_write_same _ _ _ readyMem_wf).symm.trans ((h _ rfl).1 rfl)
  have z : ready.reg .intf = 0x00#8 := readyMem_read 0x07
  rw [z] at e
  exact absurd e (by decide)

/-- A legal state whose next move is given. -/
def given (m : Move) : State := { ready with inputs := [m] }

theorem legal_given (m : Move) : Legal (given m) := by
  obtain ⟨⟨h1, h2, h3, h4, h5, h6, h7, h8⟩, ⟨m1, m2⟩, ⟨c1, c2⟩⟩ := legal_ready
  exact ⟨⟨h1, h2, h3, h4, h5, h6, h7, h8⟩, ⟨m1, m2⟩, ⟨c1, c2⟩⟩

theorem openOnce_given (m : Move) : OpenOnce (given m) := rfl

theorem witness_DecodedBytesEncodeBack :
    decode .cmd8 [0xFF#8] = .ok (.monstart 15#4) ∧
    decode .busReq24 [0xFE#8, 0x0A#8, 0x7F#8] = .ok (.busWr 0x7F#7 0x0A#8 0xFE#8) ∧
    decode .openReq8 [0xFF#8] = .ok (.busOpen 0xFF#8) := by decide

theorem witness_OnlyWrongLengthsAreRefused :
    [0x00#8].length = Format.cmd8.bytes ∧ [0x00#8, 0x00#8].length ≠ Format.busReq24.bytes := by decide

theorem witness_IgnoredFieldsShowInCmdrOnly :
    State.reset.seq = .sReset ∧ ready.seq = .sReady ∧ isLed 0#4 = true ∧ isLed 5#4 = true ∧ isSw 6#4 = true ∧
    isSw 7#4 = true := by decide

theorem witness_SetBitIsActiveLow :
    (7 : Nat) < 8 ∧ (0 : Nat) < 8 ∧ (0 : Nat) ≠ 7 ∧ getBit 0x7F#8 7 = !true ∧ getBit 0x80#8 7 = !false := by decide

theorem witness_LedStateInvertsSetBit : (7 : Nat) < 8 ∧ (0 : Nat) < 8 ∧ (0 : Nat) ≠ 7 := by decide

theorem witness_ButtonDecodePrefersSw1 :
    (0x40#8).getLsbD 6 = true ∧ ((0x80#8).getLsbD 6 = false ∧ (0x80#8).getLsbD 7 = true) ∧
    ((0x3F#8).getLsbD 6 = false ∧ (0x3F#8).getLsbD 7 = false) := by decide

theorem witness_PinClassesAndMasks : (7#4).toNat < 8 ∧ (7 : Nat) < 8 := by decide

theorem witness_ResetStateIsLegal : opField 0x20#8 ≠ 0b000#3 ∧ opField 0xFF#8 ≠ 0b000#3 := by decide

/-- A ready state as INIT leaves it, with the parameters in place. -/
def setUp : State :=
  { ready with
    cfgBus := Config.busNum, cfgDev := Config.devAddr, handleBus := Config.busNum, inputs := [.tick] }

theorem witness_EveryStepKeepsLegal : Legal setUp ∧ SetUp setUp ∧ ∃ t, step setUp = .next t := by
  obtain ⟨⟨h1, h2, h3, h4, h5, h6, h7, h8⟩, ⟨m1, m2⟩, ⟨c1, c2⟩⟩ := legal_ready
  obtain ⟨r1, r2, r3, r4, r5⟩ := configured_ready
  exact ⟨⟨⟨h1, h2, h3, h4, h5, h6, h7, h8⟩, ⟨m1, m2⟩, ⟨c1, c2⟩⟩,
    ⟨fun _ => ⟨rfl, rfl⟩, fun _ => rfl, fun _ => r2, fun _ => r1, fun _ => r3, fun _ => r4, fun _ => r5⟩, _, rfl⟩

theorem witness_PeripheralAddressIsImmutable :
    ∃ t, step (given (.offer 0x80#8)) = .next t ∧ (given (.offer 0x80#8)).seq ≠ .sReset ∧ t.seq ≠ .sReset :=
  ⟨{ ready with seq := .sExec1, cmdr := 0x80#8 }, rfl, by decide, by decide⟩

theorem witness_OnlyMappedCallsAreIssued : ∃ t, step (given .tick) = .next t := ⟨_, rfl⟩

theorem witness_OpenIsIssuedOnce :
    Legal (given .tick) ∧ OpenOnce (given .tick) ∧ ∃ t, step (given .tick) = .next t :=
  ⟨legal_given _, openOnce_given _, _, rfl⟩

theorem witness_InitIsAccepted : State.reset.seq = .sReset := rfl

theorem witness_UnacceptedWordsHaveNoEffect :
    (State.reset.seq = .sReset ∧ opField 0x1F#8 = 0b000#3) ∧ (ready.seq = .sReady ∧ ¬opField 0x20#8 = 0b000#3) ∧
    ¬((ready.seq = .sReset ∧ opField 0x00#8 = 0b000#3) ∨ (ready.seq = .sReady ∧ ¬opField 0x00#8 = 0b000#3)) := by
  decide

theorem witness_InvalidPinsHaltAtAcceptance :
    ready.seq = .sReady ∧ 5 < (6#4).toNat ∧ 5 < (15#4).toNat ∧ ((5#4).toNat ≠ 6 ∧ (5#4).toNat ≠ 7) ∧
    ((8#4).toNat ≠ 6 ∧ (8#4).toNat ≠ 7) := by decide

theorem witness_SetledCompletes :
    ready.seq = .sReady ∧ (5#4).toNat ≤ 5 ∧ ready.lock = .free ∧ ready.handleV = true ∧
    answeredByte (.ok 0xFF#8) .gpio ready = some 0xFF#8 ∧ NoTransportError (.ok 0x00#8) := by decide

theorem witness_SetledsCompletes :
    ready.seq = .sReady ∧ ready.lock = .free ∧ ready.handleV = true ∧ NoTransportError .reference := by decide

theorem witness_GetledCompletes :
    ready.seq = .sReady ∧ (5#4).toNat ≤ 5 ∧ ready.lock = .free ∧ ready.handleV = true ∧
    answeredByte (.ok 0xC0#8) .gpio ready = some 0xC0#8 := by decide

theorem witness_PollbtnCompletes :
    ready.seq = .sReady ∧ ready.lock = .free ∧ ready.handleV = true ∧
    answeredByte (.ok 0x80#8) .intf ready = some 0x80#8 := by decide

theorem witness_ClrintCompletes :
    ready.seq = .sReady ∧ ready.lock = .free ∧ ready.handleV = true ∧
    answeredByte (.ok 0xFF#8) .gpio ready = some 0xFF#8 := by decide

theorem witness_BtnstateCompletes :
    ready.seq = .sReady ∧ ((6#4).toNat = 6 ∨ (6#4).toNat = 7) ∧ ((7#4).toNat = 6 ∨ (7#4).toNat = 7) ∧
    ready.lock = .free ∧ ready.handleV = true ∧ answeredByte (.ok 0x40#8) .intf ready = some 0x40#8 := by decide

theorem witness_MonitorCommandsComplete : ready.seq = .sReady := rfl

/-- Each state of INIT's transactions, with the handle open and the lock free. -/
theorem witness_InitStepsInStrictOrder :
    NoTransportError (.ok 0x00#8) ∧ { State.reset with seq := .sOpen }.seq = .sOpen ∧
    ∀ q ∈ [Seq.sProbe, .sPullup, .sDir, .sLedsOff, .sInten, .sDefval, .sIntcon, .sIntclr, .sFlashOn, .sFlashOff],
      { ready with seq := q }.handleV = true ∧ { ready with seq := q }.lock = .free ∧
        { ready with seq := q }.seq = q := by decide

/-- V-I3: two ticks of a hold, and the tick before the last; V-I2: no tick. -/
theorem witness_FlashHoldsLastTheirTicks :
    { ready with seq := .sHoldOn, ht := 2#16 }.seq = .sHoldOn ∧
    { ready with seq := .sHoldOff, ht := 0#16 }.seq = .sHoldOff ∧
    (1 ≤ (2#16).toNat ∧ 1 < (2#16).toNat) ∧ (2 ≤ (2#16).toNat ∧ 2 = (2#16).toNat) ∧ 0 = (0#16).toNat := by decide

theorem witness_InitEstablishesItsContract :
    Legal { State.reset with mem := readyMem } ∧ State.reset.seq = .sReset ∧
    ∀ k : Fin 11, NoTransportError ((fun _ => Answer.reference) k) :=
  ⟨⟨by constructor <;> decide, memInv_ready rfl, by constructor <;> decide⟩, rfl, by decide⟩

/-- The state of INIT that follows a byte call (R153 to R160, R161, R163). -/
def afterCall : Seq → Option Seq
  | .sProbe => some .sPullup
  | .sPullup => some .sDir
  | .sDir => some .sLedsOff
  | .sLedsOff => some .sInten
  | .sInten => some .sDefval
  | .sDefval => some .sIntcon
  | .sIntcon => some .sIntclr
  | .sIntclr => some .sFlashOn
  | .sFlashOn => some .sHoldOn
  | .sFlashOff => some .sHoldOff
  | _ => none

/-- One byte call of INIT, answered by the reference peripheral. -/
theorem init_transaction {s : State} {n : Seq} (hn : afterCall s.seq = some n)
    (h : s.handleV = true ∧ s.lock = .free ∧ s.err = .none) :
    ∃ t, runMove (.seq .reference) s = .next t ∧ t.seq = n ∧ t.handleV = true ∧ t.lock = .free ∧ t.err = .none := by
  obtain ⟨hv, hl, he⟩ := h
  have hm : seqMayCall s = true := by
    cases hs : s.seq <;> rw [hs] at hn <;> first | (cases hn; done) | simp [seqMayCall, hs, hv, hl]
  have call : (∃ r v, r.writable = true ∧ seqRequest s = some (writeRequest r v s)) ∨
      seqRequest s = some (readRequest .gpio s) := by
    unfold seqRequest
    cases hs : s.seq <;> rw [hs] at hn <;>
      first
      | (cases hn; done)
      | exact .inr rfl
      | exact .inl ⟨_, _, (by decide : (_ : Reg).writable = true), rfl⟩
  rcases call with ⟨r, v, hr, hi⟩ | hi
  · refine ⟨_, runMove_seq_write hi hm hv hr (by decide), ?_⟩
    cases hs : s.seq <;> rw [hs] at hn <;> cases hn <;> simp [seqFinish, State.writeOk, hv, hl, he]
  · refine ⟨_, runMove_seq_read (a := .reference) hi hm hv rfl rfl, ?_⟩
    cases hs : s.seq <;> rw [hs] at hn <;> cases hn <;> simp [seqFinish, State.readOk, hv, hl, he]

/-- The state of INIT that follows `k` byte calls. -/
def afterCalls (k : Nat) (q : Seq) : Option Seq :=
  match k with
  | 0 => some q
  | k + 1 => (afterCall q).bind (afterCalls k)

/-- `k` byte calls of INIT in a row, answered by the reference peripheral. -/
theorem init_calls (k : Nat) {s : State} {n : Seq} (hn : afterCalls k s.seq = some n)
    (h : s.handleV = true ∧ s.lock = .free ∧ s.err = .none) :
    ∃ t, runMoves (List.replicate k (.seq .reference)) s = .next t ∧
      t.seq = n ∧ t.handleV = true ∧ t.lock = .free ∧ t.err = .none := by
  induction k generalizing s with
  | zero => exact ⟨s, rfl, Option.some.inj hn, h⟩
  | succ k ih =>
    obtain ⟨m, hm, hk⟩ := Option.bind_eq_some_iff.mp hn
    obtain ⟨t, ht, rfl, h'⟩ := init_transaction hm h
    obtain ⟨u, hu, hq⟩ := ih hk h'
    exact ⟨u, (runMoves_cons _ ht).trans hu, hq⟩

/-- A clean reset, and a state that a run of INIT from it reaches. -/
theorem witness_InitEstablishesItsContract_inited :
    (CleanReset State.reset ∧ Legal State.reset ∧ State.reset.seq = .sReset) ∧ ∃ s, Inited s := by
  refine ⟨⟨rfl, ⟨by constructor <;> decide, memInv_reset, by constructor <;> decide⟩,
    rfl⟩, ?_⟩
  obtain ⟨s1, r1, q1, h1⟩ : ∃ t, runMoves [.offer 0x00#8, .seq .reference] State.reset = .next t ∧
      t.seq = .sProbe ∧ t.handleV = true ∧ t.lock = .free ∧ t.err = .none := ⟨_, rfl, by decide⟩
  obtain ⟨s2, r2, q2, h2⟩ := init_calls 9 (n := .sHoldOn) (by rw [q1]; rfl) h1
  obtain ⟨d, t, r3, _, ht⟩ := runMoves_ticks s2.ht.toNat (s := s2) (by rw [q2]; decide)
  have ht : t = 0#16 := BitVec.eq_of_toNat_eq (by simpa using ht)
  have r4 : runMove (.seq .reference) { s2 with dbt := d, ht := t } =
      .next { s2 with dbt := d, ht := t, seq := .sFlashOff } := by simp [runMove, seqStep, q2, ht]
  obtain ⟨s5, r5, q5, h5⟩ :=
    init_transaction (s := { s2 with dbt := d, ht := t, seq := .sFlashOff }) (n := .sHoldOff) rfl h2
  obtain ⟨e, u, r6, _, hu⟩ := runMoves_ticks s5.ht.toNat (s := s5) (by rw [q5]; decide)
  have hu : u = 0#16 := BitVec.eq_of_toNat_eq (by simpa using hu)
  have r7 : runMove (.seq .reference) { s5 with dbt := e, ht := u } =
      .next (State.respond 0x00#8 { s5 with dbt := e, ht := u }) := by simp [runMove, seqStep, q5, hu]
  refine ⟨State.respond 0x00#8 { s5 with dbt := e, ht := u }, State.reset,
    [.offer 0x00#8, .seq .reference] ++ (List.replicate 9 (.seq .reference) ++
      (List.replicate s2.ht.toNat .tick ++ (.seq .reference :: .seq .reference ::
        (List.replicate s5.ht.toNat .tick ++ [.seq .reference])))),
    rfl, memInv_reset, by simp, ?_, rfl, h5.2.2⟩
  rw [runMoves_append _ r1, runMoves_append _ r2, runMoves_append _ r3, runMoves_cons _ r4, runMoves_cons _ r5,
    runMoves_append _ r6, runMoves_cons _ r7]
  rfl

/-- What an expander configured by INIT reads back: bits 0 to 5 of a byte that agrees with the latch. -/
theorem readsBack_of {s : State} {g : Byte} (h : ∀ i, i < 6 → g.getLsbD i = (s.reg .olat).getLsbD i) : ReadsBack g s :=
  fun i hi _ => h i hi

/-- No call is appended where a move makes none. -/
theorem noCall {l : List Call} {c : Call} (h : l = l ++ [c]) : False := by simp at h

/-- The byte of the read that a move appends. -/
theorem readByte {l : List Call} {r : Byte} {v w : Byte} (h : l ++ [Call.rd r (some w)] = l ++ [.rd r (some v)]) :
    v = w := by
  cases List.append_cancel_left h; rfl

/-- A write is no read. -/
theorem noRead {l : List Call} {r q : Byte} {x y : Byte} {ok : Bool}
    (h : l ++ [Call.wr r x ok] = l ++ [.rd q (some y)]) : False := by
  cases List.append_cancel_left h

/-- SETLED LED1, ON then GETLED: the reads answer 0xFF and 0xFE, in bits 0 to 5 what OLAT holds. -/
theorem witness_LedRoundTripAndIsolation :
    let moves : List Move :=
      [.offer (wordOpSP 0b001#3 true 0#4), .seq (.ok 0xFF#8), .seq (.ok 0x00#8), .offer (wordOpSP 0b011#3 false 0#4),
        .seq (.ok 0xFE#8)]
    Legal ready ∧ ready.seq = .sReady ∧ Configured ready ∧ (0#4).toNat ≤ 5 ∧ (5#4).toNat ≤ 5 ∧ 5#4 ≠ 0#4 ∧
    NoTransportErrorIn moves ∧ Readback moves ready := by
  refine ⟨legal_ready, rfl, configured_ready, by decide, by decide, by decide, fun a ha => ?_, ?_⟩
  · simp at ha; rcases ha with rfl | rfl | rfl <;> decide
  · intro t ht; cases ht
    refine ⟨fun v hv => (noCall hv).elim, fun t ht => ?_⟩; cases ht
    refine ⟨fun v hv => ?_, fun t ht => ?_⟩
    · cases (readByte hv : v = 0xFF#8)
      refine readsBack_of fun i hi => ?_
      refine Eq.trans ?_ (congrArg (fun b : Byte => b.getLsbD i) (readyMem_read 0x0A)).symm
      interval_cases i <;> rfl
    cases ht
    refine ⟨fun v hv => (noRead hv).elim, fun t ht => ?_⟩; cases ht
    refine ⟨fun v hv => (noCall hv).elim, fun t ht => ?_⟩; cases ht
    refine ⟨fun v hv => ?_, trivial⟩
    cases (readByte hv : v = 0xFE#8)
    refine readsBack_of fun i hi => ?_
    refine Eq.trans ?_ (congrArg (fun b : Byte => b.getLsbD i) (Memory.read_write_same _ 0x0A 0xFE#8
      (Memory.write_wf _ 0x07 0x00#8 readyMem_wf))).symm
    interval_cases i <;> rfl

theorem witness_BulkLedsReadBack :
    let moves : List Move :=
      [.offer (wordOpSP 0b010#3 true 0#4), .seq (.ok 0x00#8), .offer (wordOpSP 0b011#3 false 5#4), .seq (.ok 0xC0#8)]
    Legal ready ∧ ready.seq = .sReady ∧ Configured ready ∧ (5#4).toNat ≤ 5 ∧
    NoTransportErrorIn moves ∧ Readback moves ready := by
  refine ⟨legal_ready, rfl, configured_ready, by decide, fun a ha => ?_, ?_⟩
  · simp at ha; rcases ha with rfl | rfl <;> decide
  · intro t ht; cases ht
    refine ⟨fun v hv => (noCall hv).elim, fun t ht => ?_⟩; cases ht
    refine ⟨fun v hv => (noRead hv).elim, fun t ht => ?_⟩; cases ht
    refine ⟨fun v hv => (noCall hv).elim, fun t ht => ?_⟩; cases ht
    refine ⟨fun v hv => ?_, trivial⟩
    cases (readByte hv : v = 0xC0#8)
    refine readsBack_of fun i hi => ?_
    refine Eq.trans ?_ (congrArg (fun b : Byte => b.getLsbD i) (Memory.read_write_same _ 0x0A 0x00#8
      readyMem_wf)).symm
    interval_cases i <;> rfl

theorem witness_SetledPairIsNeverSplit :
    Legal { writing with inputs := [.tick] } ∧ { writing with inputs := [.tick] }.lock = .host ∧
    ∃ t, step { writing with inputs := [.tick] } = .next t := by
  obtain ⟨⟨h1, h2, h3, h4, h5, h6, h7, h8⟩, ⟨m1, m2⟩, ⟨c1, c2⟩⟩ := legal_writing
  exact ⟨⟨⟨h1, h2, h3, h4, h5, h6, h7, h8⟩, ⟨m1, m2⟩, ⟨c1, c2⟩⟩, rfl, _, rfl⟩

theorem witness_BusRdCompletes :
    { ready with ans := .ok 0x40#8 }.handleV = true ∧
    answeredByte (.ok 0x40#8) .intf { ready with ans := .ok 0x40#8 } = some 0x40#8 ∧
    answeredByte (.ok 0x40#8) .gpio { ready with ans := .ok 0x40#8 } = some 0x40#8 := by decide

theorem witness_BusWrCompletes :
    ready.handleV = true ∧ NoTransportError ready.ans ∧
    0x0A#8 ∈ [0x00#8, 0x02#8, 0x03#8, 0x04#8, 0x06#8, 0x0A#8] ∧
    0x00#8 ∈ [0x00#8, 0x02#8, 0x03#8, 0x04#8, 0x06#8, 0x0A#8] := by decide

/-- Answered ok and answered err. -/
theorem witness_BusCallFrames :
    (∃ t, exec (.busRd 0x20#7 0x09#8 0x00#8) ready = .next t) ∧
    (∃ t, exec (.busRd 0x20#7 0x07#8 0x00#8) ready = .next t) ∧
    (∃ t, exec (.busWr 0x20#7 0x0A#8 0xFE#8) ready = .next t) ∧
    (∃ t, exec (.busRd 0x20#7 0x09#8 0x00#8) { ready with ans := .err } = .next t ∧ t.seq = .sHalt) ∧
    ∃ t, exec (.busWr 0x20#7 0x0A#8 0xFE#8) { ready with ans := .err } = .next t ∧ t.seq = .sHalt :=
  ⟨⟨_, rfl⟩, ⟨_, rfl⟩, ⟨_, rfl⟩, ⟨_, rfl, rfl⟩, _, rfl, rfl⟩

theorem witness_BusOpenCompletes :
    { State.reset with seq := .sOpen }.seq = .sOpen ∧ NoTransportError State.reset.ans ∧
    { State.reset with seq := .sOpen, ans := .err }.seq = .sOpen ∧
    { State.reset with seq := .sOpen, ans := .err }.ans = .err := by decide

theorem witness_UnissuedRequestsHoldOrStop :
    State.reset.handleV = false ∧ ready.seq ≠ .sOpen ∧ (ready.handleV = true ∧ 0x21#7 ≠ ready.cfgDev) ∧
    0x01#8 ∉ [0x00#8, 0x02#8, 0x03#8, 0x04#8, 0x06#8, 0x07#8, 0x09#8, 0x0A#8] ∧
    0x0B#8 ∉ [0x00#8, 0x02#8, 0x03#8, 0x04#8, 0x06#8, 0x07#8, 0x09#8, 0x0A#8] ∧
    0x0A#8 ∈ [0x00#8, 0x02#8, 0x03#8, 0x04#8, 0x06#8, 0x0A#8] ∧ 0x09#8 ∈ [0x07#8, 0x09#8] := by decide

/-- The three kinds of step: an offered word, a granted call of the sequencer, a granted call of the monitor. -/
theorem witness_StepRunsTheDecodedInstruction :
    ((given (.offer 0x80#8)).inputs = .offer 0x80#8 :: [] ∧ decode .cmd8 [0x80#8] = .ok (.pollbtn 0#5)) ∧
    (seqRequest (executing 0x80#8) = some (.busRd 0x20#7 0x07#8 0x00#8) ∧ seqMayCall (executing 0x80#8) = true) ∧
    ((watching .mClear .sw1 0#16).seq ≠ .sHalt ∧
      monRequest (watching .mClear .sw1 0#16) = some (.busRd 0x20#7 0x09#8 0x00#8) ∧
      monMayCall (watching .mClear .sw1 0#16) = true) := by decide

theorem witness_PlacedWordsRunNext :
    (decodeTableWord 24 (0xA00900#24).toNat = some (.busRd 0x20#7 0x09#8 0x00#8) ∧
      (Instr.busRd 0x20#7 0x09#8 0x00#8).WellFormed) ∧
    (decodeTableWord 24 (0x7F0A3F#24).toNat = some (.busWr 0x7F#7 0x0A#8 0x3F#8) ∧
      (Instr.busWr 0x7F#7 0x0A#8 0x3F#8).WellFormed) := by decide

theorem witness_HaltIsFinal : { State.reset with seq := .sHalt }.seq = .sHalt ∧ Move.tick ≠ .reset := by decide

/-- An enabled open, read (in S_PROBE and elsewhere) and write. -/
theorem witness_SequencerCallErrorsHalt :
    (seqRequest { State.reset with seq := .sOpen } = some (.busOpen 0x00#8) ∧
      seqMayCall { State.reset with seq := .sOpen } = true) ∧
    (seqRequest { ready with seq := .sProbe } = some (.busRd 0x20#7 0x09#8 0x00#8) ∧
      seqMayCall { ready with seq := .sProbe } = true) ∧
    (seqRequest (executing 0x80#8) = some (.busRd 0x20#7 0x07#8 0x00#8) ∧ seqMayCall (executing 0x80#8) = true) ∧
    (seqRequest writing = some (.busWr 0x20#7 0x0A#8 0xFE#8) ∧ seqMayCall writing = true) := by decide

theorem witness_MonitorCallErrorsHalt :
    ((watching .mIdle .none 0#16).seq ≠ .sHalt ∧ (watching .mIdle .none 0#16).lock = .free ∧
      (watching .mIdle .none 0#16).handleV = true ∧ (watching .mIdle .none 0#16).mon = .mIdle ∧
      (watching .mIdle .none 0#16).monEn = true) ∧
    ((watching .mClear .sw2 0#16).seq ≠ .sHalt ∧ (watching .mClear .sw2 0#16).lock = .free ∧
      (watching .mClear .sw2 0#16).handleV = true ∧ (watching .mClear .sw2 0#16).mon = .mClear) := by decide

theorem witness_MonitorPollDetects :
    let s := watching .mIdle .none 0#16
    s.mon = .mIdle ∧ s.monEn = true ∧ s.seq ≠ .sHalt ∧ s.lock = .free ∧ s.handleV = true ∧
    answeredByte (.ok 0x3F#8) .intf s = some 0x3F#8 ∧ ((0x3F#8).getLsbD 6 = false ∧ (0x3F#8).getLsbD 7 = false) ∧
    answeredByte (.ok 0xC0#8) .intf s = some 0xC0#8 ∧ (0xC0#8).getLsbD 6 = true ∧
    answeredByte (.ok 0x80#8) .intf s = some 0x80#8 ∧ ((0x80#8).getLsbD 6 = false ∧ (0x80#8).getLsbD 7 = true) := by
  decide

/-- V-M3: 499 of the 500 ticks, all of them, and a timer that is zero already. -/
theorem witness_DebounceLastsItsTicks :
    let s := watching .mDebounce .sw2 500#16
    s.mon = .mDebounce ∧ s.seq ≠ .sHalt ∧ (499 ≤ s.dbt.toNat ∧ 499 < s.dbt.toNat) ∧
    (500 ≤ s.dbt.toNat ∧ 500 = s.dbt.toNat) ∧ 0 = (watching .mDebounce .sw2 0#16).dbt.toNat := by decide

theorem witness_MonitorClearsThenDispatches :
    let c := watching .mClear .sw2 0#16
    let d := watching .mDispatch .sw2 0#16
    c.seq ≠ .sHalt ∧ c.mon = .mClear ∧ c.lock = .free ∧ c.handleV = true ∧
    answeredByte (.ok 0x7F#8) .gpio c = some 0x7F#8 ∧ d.seq ≠ .sHalt ∧ d.mon = .mDispatch ∧ d.evtReady = false ∧
    { d with evtReady := true }.mon = .mDispatch ∧ { d with evtReady := true }.evtReady = true := by decide

theorem witness_MonitorStopsAndHolds :
    ready.seq ≠ .sHalt ∧ ready.mon = .mOff ∧
    { ready with mon := .mIdle }.mon = .mIdle ∧ { ready with mon := .mIdle }.monEn = false ∧
    { writing with mon := .mIdle, monEn := true }.lock = .host ∧
    { writing with mon := .mIdle, monEn := true }.mon = .mIdle ∧
    { writing with mon := .mIdle, monEn := true }.monEn = true ∧
    { writing with mon := .mClear }.mon = .mClear ∧ { writing with mon := .mClear }.lock = .host := by decide

/-- A tick, and a reset, while an event is latched. -/
theorem witness_LatchedEventSurvives :
    ∀ m ∈ [Mon.mDebounce, .mClear, .mDispatch], ∀ v ∈ [Move.tick, .reset],
      eventLatchedIn { watching m .sw1 0#16 with inputs := [v] }.mon = true ∧
      (stateOf (step { watching m .sw1 0#16 with inputs := [v] })).isSome = true := by decide

theorem witness_MonitorNeverWrites : ∃ t, runMove (.mon .reference) (watching .mClear .sw1 0#16) = .next t :=
  ⟨_, rfl⟩

/-- A configured expander whose SW1 flag is set, and the monitor polling. -/
def pressed : State :=
  { ready with mon := .mIdle, monEn := true, evtReady := true, mem := Memory.write readyMem 0x07 0x40#8 }

theorem legal_pressed : Legal pressed :=
  ⟨by constructor <;> decide,
    ⟨Memory.write_wf _ _ _ readyMem_wf, fun c hc => by
      rcases Memory.mem_write _ _ _ c hc with ⟨rfl, _⟩ | hc
      · exact ⟨.intf, by decide, rfl⟩
      · exact readyMem_addresses c hc⟩,
    by constructor <;> decide⟩

theorem pressed_intf : pressed.reg .intf = 0x40#8 := Memory.read_write_same _ _ _ readyMem_wf

theorem witness_OnePressGivesOneEvent :
    Legal pressed ∧ pressed.seq = .sReady ∧ pressed.mon = .mIdle ∧ pressed.monEn = true ∧ pressed.evtReady = true ∧
    decodeButton (pressed.reg .intf) ≠ .none :=
  ⟨legal_pressed, rfl, rfl, rfl, rfl, by rw [pressed_intf]; decide⟩

theorem witness_ReferenceReads : AnsweredByReference [.offer 0x80#8, .seq .reference, .mon .reference] := by
  intro a ha; simpa using ha

/-- A configured expander; one that compares pin 6 with its previous level; one that does not pull it up. -/
theorem witness_PressAndReleaseAfterInit :
    let compares : State := { ready with mem := Memory.write readyMem 0x04 0x00#8 }
    let floats : State := { ready with mem := Memory.write readyMem 0x06 0x00#8 }
    (Legal ready ∧ Configured ready ∧ (ready.reg .gppu).getLsbD Button.sw1.pin = true ∧
      (ready.reg .intcon).getLsbD Button.sw1.pin = true ∧ (ready.reg .defval).getLsbD Button.sw1.pin = true) ∧
    (Legal compares ∧ (compares.reg .intcon).getLsbD Button.sw1.pin = false) ∧
    (Legal floats ∧ (floats.reg .gppu).getLsbD Button.sw1.pin = false) ∧
    ∃ u : State, (u.reg .gppu).getLsbD Button.sw1.pin = true := by
  have bit (s : State) (r : Reg) (v : Byte) (h : s.reg r = v) : (s.reg r).getLsbD Button.sw1.pin = v.getLsbD 6 :=
    congrArg (fun b : Byte => b.getLsbD 6) h
  obtain ⟨⟨h1, h2, h3, h4, h5, h6, h7, h8⟩, m, ⟨c1, c2⟩⟩ := legal_ready
  have legal (r : Reg) (hr : r ≠ .gpio) (v : Byte) : Legal (ready.setReg r v) :=
    ⟨⟨h1, h2, h3, h4, h5, h6, h7, h8⟩,
      ⟨Memory.write_wf _ _ _ readyMem_wf, fun c hc => by
        rcases Memory.mem_write _ _ _ c hc with ⟨rfl, _⟩ | hc
        · exact ⟨r, hr, rfl⟩
        · exact readyMem_addresses c hc⟩, ⟨c1, c2⟩⟩
  have c := configured_ready
  refine ⟨⟨legal_ready, c, (bit _ _ _ c.gppu).trans rfl, (bit _ _ _ c.intcon).trans rfl, (bit _ _ _ c.defval).trans rfl⟩,
    ⟨legal .intcon (by decide) 0x00#8, ?_⟩, ⟨legal .gppu (by decide) 0x00#8, ?_⟩, ready, (bit _ _ _ c.gppu).trans rfl⟩
  · exact bit _ .intcon 0x00#8 (Memory.read_write_same readyMem 0x04 0x00#8 readyMem_wf)
  · exact bit _ .gppu 0x00#8 (Memory.read_write_same readyMem 0x06 0x00#8 readyMem_wf)

/-- POLLBTN and BTNSTATE SW1 with INTF = 0x40; then each clearing command, and the monitor's step. -/
theorem witness_StaleEventsUntilCleared :
    let asking : List Move := [.offer 0x80#8, .seq (.ok 0x40#8), .offer 0xC6#8, .seq (.ok 0x40#8)]
    let hosts : List Move := [.offer 0xA0#8, .seq (.ok 0xFF#8), .seq (.ok 0x00#8), .offer 0x80#8, .seq (.ok 0x00#8)]
    let monitors : List Move := [.mon (.ok 0xFF#8), .offer 0x80#8, .seq (.ok 0x00#8)]
    let clearing : State := { pressed with mon := .mClear, evt := .sw1 }
    (Legal pressed ∧ pressed.seq = .sReady ∧ decodeCommand 0x80#8 = .pollbtn 0#5 ∧
      (decodeCommand 0xC6#8 = .btnstate false 6#4 ∧ (6#4).toNat = 6) ∧
      NoTransportErrorIn asking ∧ PeripheralP1toP6 asking pressed) ∧
    (decodeCommand 0xA0#8 = .clrint 0#5 ∧ (decodeCommand 0x65#8 = .getled false 5#4 ∧ (5#4).toNat ≤ 5) ∧
      (decodeCommand 0x35#8 = .setled true 5#4 ∧ (5#4).toNat ≤ 5) ∧
      NoTransportErrorIn hosts ∧ PeripheralP1toP6 hosts pressed) ∧
    (Legal clearing ∧ clearing.seq = .sReady ∧ clearing.mon = .mClear ∧ NoTransportErrorIn monitors ∧
      PeripheralP1toP6 monitors clearing) := by
  have flags {v w : Byte} (h : [Call.rd 0x07#8 (some w)] = [.rd 0x07#8 (some v)]) : v = w := by cases h; rfl
  have level {v w : Byte} (h : [Call.rd 0x09#8 (some w)] = [.rd 0x09#8 (some v)]) : v = w := by cases h; rfl
  have wrong {l : List Call} {v w a b} (hab : a ≠ b) (h : l ++ [Call.rd a (some w)] = l ++ [.rd b (some v)]) : False := by
    cases List.append_cancel_left h; exact hab rfl
  have none {l : List Call} {c} (h : l = l ++ [c]) : False := by simp at h
  have zero : (Memory.read (Memory.write pressed.mem 0x07 0x00#8) 0x07) = 0x00#8 :=
    Memory.read_write_same _ _ _ legal_pressed.mem.wf
  have reg (r : Reg) (hr : r ≠ .intf) : pressed.reg r = ready.reg r :=
    Memory.read_write_other readyMem 0x07 r.addr.toNat _ (by cases r <;> first | decide | exact absurd rfl hr)
  have io : pressed.reg .iodir = 0xC0#8 := (reg .iodir (by decide)).trans configured_ready.iodir
  have pins : (0xFF#8) &&& pressed.reg .iodir = pressed.levels &&& pressed.reg .iodir := by
    have h : pressed.levels = 0xC0#8 := by
      show (0xC0#8 ||| (0x00#8 &&& pressed.reg .gppu)) = 0xC0#8
      rw [(reg .gppu (by decide)).trans configured_ready.gppu]; decide
    rw [io, h]; decide
  refine ⟨⟨legal_pressed, rfl, by decide, by decide, fun a ha => ?_, ?_⟩,
    ⟨by decide, by decide, by decide, fun a ha => ?_, ?_⟩, ⟨?_, rfl, rfl, fun a ha => ?_, ?_⟩⟩
  · simp at ha; subst ha; decide
  · intro t ht; cases ht
    refine ⟨⟨fun v hv => (none hv).elim, fun v hv => (none hv).elim⟩, fun t ht => ?_⟩; cases ht
    refine ⟨⟨fun v hv => (flags (List.append_cancel_left hv)).trans pressed_intf.symm,
      fun v hv => (wrong (by decide) hv).elim⟩, fun t ht => ?_⟩; cases ht
    refine ⟨⟨fun v hv => (none hv).elim, fun v hv => (none hv).elim⟩, fun t ht => ?_⟩; cases ht
    exact ⟨⟨fun v hv => (flags (List.append_cancel_left hv)).trans pressed_intf.symm,
      fun v hv => (wrong (by decide) hv).elim⟩, trivial⟩
  · simp at ha; rcases ha with rfl | rfl <;> decide
  · intro t ht; cases ht
    refine ⟨⟨fun v hv => (none hv).elim, fun v hv => (none hv).elim⟩, fun t ht => ?_⟩; cases ht
    refine ⟨⟨fun v hv => (wrong (by decide) hv).elim,
      fun v hv => by cases level (List.append_cancel_left hv); exact pins⟩, fun t ht => ?_⟩; cases ht
    refine ⟨⟨fun v hv => (none hv).elim, fun v hv => (none hv).elim⟩, fun t ht => ?_⟩; cases ht
    refine ⟨⟨fun v hv => (none hv).elim, fun v hv => (none hv).elim⟩, fun t ht => ?_⟩; cases ht
    exact ⟨⟨fun v hv => (flags (List.append_cancel_left hv)).trans zero.symm,
      fun v hv => (wrong (by decide) hv).elim⟩, trivial⟩
  · exact ⟨by constructor <;> decide, ⟨legal_pressed.mem.wf, legal_pressed.mem.addresses⟩,
      by constructor <;> decide⟩
  · simp at ha; rcases ha with rfl | rfl <;> decide
  · intro t ht; cases ht
    refine ⟨⟨fun v hv => (wrong (by decide) hv).elim,
      fun v hv => by cases level (List.append_cancel_left hv); exact pins⟩, fun t ht => ?_⟩; cases ht
    refine ⟨⟨fun v hv => (none hv).elim, fun v hv => (none hv).elim⟩, fun t ht => ?_⟩; cases ht
    exact ⟨⟨fun v hv => (flags (List.append_cancel_left hv)).trans zero.symm,
      fun v hv => (wrong (by decide) hv).elim⟩, trivial⟩

/-- CLRINT's read on a set flag: the flag falls. -/
theorem witness_FlagsFallOnlyByGpioReads :
    let s : State := { pressed with seq := .sExec1, cmdr := 0xA0#8, inputs := [.seq .reference] }
    ∃ t, Legal s ∧ step s = .next t ∧ (6 : Nat) < 8 ∧ (s.reg .intf).getLsbD 6 = true ∧
      (t.reg .intf).getLsbD 6 = false := by
  refine ⟨_, ⟨by constructor <;> decide, ⟨legal_pressed.mem.wf, legal_pressed.mem.addresses⟩,
    by constructor <;> decide⟩, rfl, by decide, ?_, ?_⟩
  · exact (congrArg (fun b : Byte => b.getLsbD 6) pressed_intf).trans rfl
  · exact (congrArg (fun b : Byte => b.getLsbD 6) (Memory.read_write_same pressed.mem 0x07 0x00#8
      legal_pressed.mem.wf)).trans rfl

theorem witness_TicksCountDown :
    { State.reset with seq := .sHalt }.seq = .sHalt ∧ (watching .mDebounce .sw1 500#16).seq ≠ .sHalt := by decide

theorem witness_EqualMemoriesAreEqualLists :
    Memory.wf readyMem ∧ Memory.wf readyMem ∧ ∀ a, Memory.read readyMem a = Memory.read readyMem a :=
  ⟨readyMem_wf, readyMem_wf, fun _ => rfl⟩

/-- MON STOP ends its run at once; MON START ends it for a claim about every prefix; an invalid pin halts. -/
theorem witness_FinishedRunsStayFinished :
    let claim : State → Prop := fun _ => True
    Legal ready ∧
    (∃ t, GoodEnd claim [0xE0#8] [.offer 0xE0#8] ready t ∧ t.mon = .mOff ∧ t.seq ≠ .sHalt) ∧
    (∃ t, GoodEnd claim [0xF0#8] [.offer 0x00#8, .offer 0xF0#8] ready t ∧ t.mon ≠ .mOff ∧
      monitorActivity .tick = true ∧ ∃ u, runMoves [.tick] t = .next u) ∧
    ∃ t, RunOver claim [0x36#8, 0x80#8] [.offer 0x36#8, .tick] ready t ∧ t.seq = .sHalt := by
  refine ⟨legal_ready, ⟨_, ⟨⟨rfl, by decide, .inl ⟨rfl, rfl, rfl, rfl, .inl rfl⟩⟩, rfl⟩, rfl, by decide⟩,
    ⟨_, ⟨⟨rfl, by decide, .inl ⟨rfl, rfl, rfl, rfl, .inr fun _ _ _ _ => trivial⟩⟩, rfl⟩, by decide, rfl, _, rfl⟩,
    _, ⟨rfl, by decide, .inr ⟨rfl, [0x80#8], rfl⟩⟩, rfl⟩

end Sys2Proof.Tests
end

/-! ## Steps complete and run the decoded instruction (00_scope.md) -/

namespace Sys2Proof

/-! ### The words of the transport requests (20_memory.md R75, R76) -/

/-- Bit 23 of a request is `rnw` and the seven bits below it are `dev`, whatever they hold (R76). -/
theorem decodeRequest_append (rnw : Bool) (dev : DevAddr) (mid lo : Byte) :
    decodeRequest (BitVec.ofBool rnw ++ dev) mid lo = bif rnw then .busRd dev mid lo else .busWr dev mid lo := by
  have hrnw : (BitVec.ofBool rnw ++ dev).getLsbD 7 = rnw := by
    rw [BitVec.getLsbD_append]
    simp
  have hdev : (BitVec.ofBool rnw ++ dev).extractLsb' 0 7 = dev := BitVec.extractLsb'_append_eq_right
  simp only [decodeRequest, hrnw, hdev]

theorem decode_encode_busRd (dev : DevAddr) (reg x : Byte) :
    decode (Instr.busRd dev reg x).format (encode (.busRd dev reg x)) = .ok (.busRd dev reg x) :=
  congrArg Except.ok (decodeRequest_append true dev reg x)

theorem decode_encode_busWr (dev : DevAddr) (reg v : Byte) :
    decode (Instr.busWr dev reg v).format (encode (.busWr dev reg v)) = .ok (.busWr dev reg v) :=
  congrArg Except.ok (decodeRequest_append false dev reg v)

theorem decode_encode_busOpen (bus : Byte) :
    decode (Instr.busOpen bus).format (encode (.busOpen bus)) = .ok (.busOpen bus) := rfl

theorem decode_cmd8_eq_ok {w : Byte} {i : Instr} (h : decode .cmd8 [w] = .ok i) : decodeCommand w = i :=
  Except.ok.inj h

end Sys2Proof

namespace Sys2Proof.Machine

/-! ### The requests the agents issue (20_memory.md R81, R82) -/

/-- Every request of the sequencer is a word of its port: encoded, it decodes to itself. -/
theorem decode_encode_of_seqRequest {s : State} {i : Instr} (h : seqRequest s = some i) :
    decode i.format (encode i) = .ok i := by
  rcases seqRequest_cases h with ⟨_, rfl⟩ | ⟨_, r, _, rfl⟩ | ⟨_, r, v, _, _, rfl⟩
  · exact decode_encode_busOpen s.cfgBus
  · exact decode_encode_busRd s.cfgDev r.addr 0x00#8
  · exact decode_encode_busWr s.cfgDev r.addr v

/-- The monitor only reads, INTF or GPIO (R223, R227). -/
theorem monRequest_read {s : State} {i : Instr} (h : monRequest s = some i) :
    ∃ r, r.readable = true ∧ i = readRequest r s := by
  rcases monRequest_cases h with ⟨_, _, rfl⟩ | ⟨_, rfl⟩
  · exact ⟨.intf, rfl, rfl⟩
  · exact ⟨.gpio, rfl, rfl⟩

/-- Every request of the monitor is a word of its port: encoded, it decodes to itself. -/
theorem decode_encode_of_monRequest {s : State} {i : Instr} (h : monRequest s = some i) :
    decode i.format (encode i) = .ok i := by
  obtain ⟨r, _, rfl⟩ := monRequest_read h
  exact decode_encode_busRd s.cfgDev r.addr 0x00#8

/-- An enabled transaction of the monitor has the handle open (R76). -/
theorem monMayCall_handle {s : State} (h : monMayCall s = true) : s.handleV = true :=
  (Bool.and_eq_true_iff.mp h).1

/-! ### No transport call of an agent faults or is refused, whatever the answer -/

theorem agentCall_read_completes {s : State} {r : Reg} (who : Agent) (a : Answer) (fin : State → State)
    (hv : s.handleV = true) (hr : r.readable = true) : ∃ t, agentCall who (readRequest r s) a fin s = .next t := by
  by_cases ha : a = .err
  · subst ha
    exact ⟨_, agentCall_read_err who fin hv hr⟩
  · obtain ⟨v, hb⟩ := answeredByte_some ha r s
    exact ⟨_, agentCall_read_ok who fin hv hr hb⟩

theorem agentCall_write_completes {s : State} {r : Reg} (v : Byte) (who : Agent) (a : Answer) (fin : State → State)
    (hv : s.handleV = true) (hr : r.writable = true) : ∃ t, agentCall who (writeRequest r v s) a fin s = .next t := by
  by_cases ha : a = .err
  · subst ha
    exact ⟨_, agentCall_write_err v who fin hv hr⟩
  · exact ⟨_, agentCall_write_ok v who fin hv hr ha⟩

theorem agentCall_open_completes {s : State} (bus : Byte) (who : Agent) (a : Answer) (fin : State → State)
    (hq : s.seq = .sOpen) : ∃ t, agentCall who (.busOpen bus) a fin s = .next t := by
  by_cases ha : a = .err
  · subst ha
    exact ⟨_, agentCall_open_err bus who fin hq⟩
  · exact ⟨_, agentCall_open_ok bus who fin hq ha⟩

/-! ### No move faults or is refused (00_scope.md R10) -/

/-- The sequencer's enabled calls have the handle open and name registers of the access matrix at CFG_DEV (R81, R82). -/
theorem seqStep_completes (a : Answer) (s : State) : ∃ t, seqStep a s = .next t := by
  rcases seqStep_cases a s with hold | ⟨_, _, flash⟩ | ⟨_, _, done⟩ | ⟨i, hi, hm, call⟩
  · exact ⟨_, hold⟩
  · exact ⟨_, flash⟩
  · exact ⟨_, done⟩
  · rw [call]
    rcases seqRequest_cases hi with ⟨hq, rfl⟩ | ⟨hq, r, hr, rfl⟩ | ⟨hq, r, v, hr, _, rfl⟩
    · exact agentCall_open_completes s.cfgBus .sequencer a seqFinish hq
    · exact agentCall_read_completes .sequencer a seqFinish (seqMayCall_handle hm hq) hr
    · exact agentCall_write_completes v .sequencer a seqFinish (seqMayCall_handle hm hq) hr

/-- The monitor's enabled calls have the handle open and read INTF or GPIO at CFG_DEV (R223, R227). -/
theorem monStep_completes (a : Answer) (s : State) : ∃ t, monStep a s = .next t := by
  rcases monStep_cases a s with
    hold | ⟨_, _, _, stop⟩ | ⟨_, _, _, debounced⟩ | ⟨_, _, _, delivery⟩ | ⟨_, i, hi, hm, call⟩
  · exact ⟨_, hold⟩
  · exact ⟨_, stop⟩
  · exact ⟨_, debounced⟩
  · exact ⟨_, delivery⟩
  · obtain ⟨r, hr, rfl⟩ := monRequest_read hi
    rw [call]
    exact agentCall_read_completes .monitor a monFinish (monMayCall_handle hm) hr

/-- An offered word is a command, never a transport request: accepted or not, it has a next state (R119, R127). -/
theorem runMove_offer_completes (w : Byte) (s : State) : ∃ t, runMove (.offer w) s = .next t := by
  rcases runMove_offer_cases w s with
    ⟨_, _, init⟩ | hold | ⟨_, _, executing⟩ | ⟨_, _, _, raised⟩ | ⟨_, monStart⟩ | ⟨_, monStop⟩
  exacts [⟨_, init⟩, ⟨_, hold⟩, ⟨_, executing⟩, ⟨_, raised⟩, ⟨_, monStart⟩, ⟨_, monStop⟩]

theorem runMove_completes (m : Move) (s : State) : ∃ t, runMove m s = .next t := by
  cases m with
  | offer w => exact runMove_offer_completes w s
  | seq a => exact seqStep_completes a s
  | mon a => exact monStep_completes a s
  | tick => exact ⟨_, rfl⟩
  | consumer ready => exact ⟨_, rfl⟩
  | press b => exact ⟨_, rfl⟩
  | release b => exact ⟨_, rfl⟩
  | setFlag m => exact ⟨_, rfl⟩
  | reset => exact ⟨_, rfl⟩

/-- Settles O16: a step is one move, and every move has a next state. -/
theorem everyStepCompletes : Obligations.EveryStepCompletes :=
  fun s => runMove_completes s.nextMove.1 s.nextMove.2

/-! ### A step runs the decoded instruction (30_encoding.md R110, 20_memory.md R77) -/

theorem step_offer {s : State} {w : Byte} {i : Instr} {rest : List Move} (h : s.inputs = .offer w :: rest)
    (hd : decode .cmd8 [w] = .ok i) : step s = exec i { s with inputs := rest } := by
  rw [step_cons h, ← decode_cmd8_eq_ok hd]
  rfl

theorem step_seq_call {s : State} {a : Answer} {i : Instr} {rest : List Move} (h : s.inputs = .seq a :: rest)
    (hi : seqRequest { s with inputs := rest } = some i) (hm : seqMayCall { s with inputs := rest } = true) :
    step s = agentCall .sequencer i a seqFinish { s with inputs := rest } :=
  (step_cons h).trans (seqStep_call a hi hm)

theorem step_mon_call {s : State} {a : Answer} {i : Instr} {rest : List Move} (h : s.inputs = .mon a :: rest)
    (hq : s.seq ≠ .sHalt) (hi : monRequest { s with inputs := rest } = some i)
    (hm : monMayCall { s with inputs := rest } = true) :
    step s = agentCall .monitor i a monFinish { s with inputs := rest } :=
  (step_cons h).trans (monStep_call a hq hi hm)

/-- Settles O41: per kind of move, the step's equation and that the request's word decodes to the request. -/
theorem stepRunsTheDecodedInstruction : Obligations.StepRunsTheDecodedInstruction := by
  intro s rest
  refine ⟨?offer, ?seq, ?mon⟩
  case offer =>
    intro w i h hd
    exact step_offer h hd
  case seq =>
    intro a i h hi hm
    exact ⟨decode_encode_of_seqRequest hi, step_seq_call h hi hm⟩
  case mon =>
    intro a i h hq hi hm
    exact ⟨decode_encode_of_monRequest hi, step_mon_call h hq hi hm⟩

end Sys2Proof.Machine

/-! ## Memory, reset and the invariants of every step (10_state.md) -/

namespace Sys2Proof.Machine

/-! ### Canonical memories (R51) -/

theorem Memory.read_head (c : Host.Cell) (m : List Host.Cell) : Memory.read (c :: m) c.1 = c.2 := if_pos rfl

theorem Memory.read_tail_unlisted {c : Host.Cell} {m : List Host.Cell} {a : Nat} (h : Memory.wf (c :: m))
    (ha : a ≤ c.1) : Memory.read m a = Memory.unlisted a :=
  Memory.read_below m a fun d hd => ha.trans_lt ((Memory.wf_tail h).2 d hd)

theorem Memory.read_head_ne_unlisted {c : Host.Cell} {m : List Host.Cell} (h : Memory.wf (c :: m)) :
    Memory.read (c :: m) c.1 ≠ Memory.unlisted c.1 := by
  rw [Memory.read_head]
  exact h.2 c List.mem_cons_self

theorem Memory.read_below_head {d : Host.Cell} {n : List Host.Cell} {a : Nat} (h : Memory.wf (d :: n))
    (ha : a < d.1) : Memory.read (d :: n) a = Memory.unlisted a := by
  have hne : d.1 ≠ a := ha.ne'
  simp [Memory.read, hne, Memory.read_tail_unlisted h ha.le]

/-- A first address below that of the other list would be unwritten there. -/
theorem Memory.head_addr_le {c d : Host.Cell} {m n : List Host.Cell} (hm : Memory.wf (c :: m))
    (hn : Memory.wf (d :: n)) (h : ∀ a, Memory.read (c :: m) a = Memory.read (d :: n) a) : d.1 ≤ c.1 := by
  by_contra hlt
  exact Memory.read_head_ne_unlisted hm ((h c.1).trans (Memory.read_below_head hn (Nat.lt_of_not_le hlt)))

/-- At the first cell's own address both tails are unwritten; elsewhere the first cell is passed over. -/
theorem Memory.read_tail_congr {c : Host.Cell} {m n : List Host.Cell} (hm : Memory.wf (c :: m))
    (hn : Memory.wf (c :: n)) (h : ∀ a, Memory.read (c :: m) a = Memory.read (c :: n) a) (a : Nat) :
    Memory.read m a = Memory.read n a := by
  by_cases ha : c.1 = a
  · rw [Memory.read_tail_unlisted hm ha.ge, Memory.read_tail_unlisted hn ha.ge]
  · simpa [Memory.read, ha] using h a

/-- Settles O59, by induction on the first list: the heads have the same address and byte, the tails read the same. -/
theorem equalMemoriesAreEqualLists : Obligations.EqualMemoriesAreEqualLists := by
  intro m
  induction m with
  | nil =>
    intro n _ hn h
    cases n with
    | nil => rfl
    | cons d n => exact absurd (h d.1).symm (Memory.read_head_ne_unlisted hn)
  | cons c m ih =>
    intro n hm hn h
    cases n with
    | nil => exact absurd (h c.1) (Memory.read_head_ne_unlisted hm)
    | cons d n =>
      have haddr : c.1 = d.1 :=
        Nat.le_antisymm (Memory.head_addr_le hn hm fun a => (h a).symm) (Memory.head_addr_le hm hn h)
      have hbyte : c.2 = d.2 := by
        rw [← Memory.read_head c m, h c.1, haddr, Memory.read_head]
      obtain rfl : c = d := Prod.ext haddr hbyte
      rw [ih n (Memory.wf_tail hm).1 (Memory.wf_tail hn).1 (Memory.read_tail_congr hm hn h)]

/-! ### The status flags (R32) -/

theorem State.ready_iff (s : State) : s.ready = true ↔ s.seq = .sReady := beq_iff_eq

theorem State.halted_iff (s : State) : s.halted = true ↔ s.seq = .sHalt := beq_iff_eq

theorem State.initialising_iff (s : State) :
    s.initialising = true ↔
      s.seq ∈ [Seq.sOpen, .sProbe, .sPullup, .sDir, .sLedsOff, .sInten, .sDefval, .sIntcon, .sIntclr, .sFlashOn,
        .sHoldOn, .sFlashOff, .sHoldOff] := by
  unfold State.initialising
  cases s.seq <;> decide

theorem State.busy_iff (s : State) : s.busy = true ↔ s.seq = .sExec1 ∨ s.seq = .sExec2 := by
  simp [State.busy]

/-- Settles O12: the reset state and the code tables by evaluation, the flags from what each says of SEQ. -/
theorem resetStateIsTheTable : Obligations.ResetStateIsTheTable :=
  ⟨by decide, rfl, rfl, rfl, rfl,
    fun s => ⟨s.ready_iff, s.halted_iff, s.initialising_iff, s.busy_iff⟩⟩

/-! ### What the agents do after an answer, case by case -/

/-- INIT goes from `p` to `q`: "in strict order" the next state, S_PROBE to S_HOLD_OFF (R24). -/
structure InitAdvance (p q : Seq) : Prop where
  code : q.code.toNat = p.code.toNat + 1
  started : 1 ≤ p.code.toNat
  inside : q.code.toNat ≤ 13

theorem Seq.code_injective {p q : Seq} (h : p.code.toNat = q.code.toNat) : p = q := by
  revert h
  cases p <;> cases q <;> decide

theorem InitAdvance.source {p q : Seq} (h : InitAdvance p q) : p ≠ .sReset ∧ p ≠ .sHalt ∧ p ≠ .sExec2 := by
  obtain ⟨hcode, hstart, hin⟩ := h
  have hp : p.code.toNat ≤ 12 := by omega
  refine ⟨?_, ?_, ?_⟩ <;> rintro rfl
  · exact absurd hstart (by decide)
  · exact absurd hp (by decide)
  · exact absurd hp (by decide)

theorem InitAdvance.target {p q : Seq} (h : InitAdvance p q) :
    q ≠ .sExec1 ∧ q ≠ .sExec2 ∧ handleOpenIn q = true := by
  obtain ⟨hcode, hstart, hin⟩ := h
  refine ⟨?_, ?_, by simp [handleOpenIn]; omega⟩ <;> rintro rfl
  · exact absurd hin (by decide)
  · exact absurd hin (by decide)

/-- The monitor never runs during INIT (R52 item 3). -/
theorem InitAdvance.monitor_waits {p q : Seq} (h : InitAdvance p q) : monitorMayRunIn p = false := by
  obtain ⟨hcode, _, hin⟩ := h
  have hp : p.code.toNat ≤ 12 := by omega
  revert hp
  cases p <;> decide

/-- A step of INIT puts one step behind it: its own. -/
theorem InitAdvance.past {s t : State} (h : InitAdvance s.seq t.seq) {q : Seq} (hp : Past q t) :
    Past q s ∨ q = s.seq := by
  have hcode := h.code
  have hlt := hp.1
  by_cases e : q.code.toNat = s.seq.code.toNat
  · exact .inr (Seq.code_injective e)
  · exact .inl ⟨by omega, h.source.2.1⟩

/-- The end of a sequencer transaction: nothing, the next state of INIT with HT loaded for a hold, the second
transaction of SETLED, the response of a command's only transaction, or that of SETLED's second. -/
theorem seqFinish_cases (s : State) :
    seqFinish s = s ∨
    (∃ n, InitAdvance s.seq n ∧ holdsIn s.seq = false ∧
      seqFinish s = { s with seq := n, ht := if holdsIn n then Config.flashHoldMs else s.ht }) ∨
    (s.seq = .sExec1 ∧ (∃ on p, decodeCommand s.cmdr = .setled on p) ∧
      seqFinish s = { s with tmp := s.rdata, lock := .host, seq := .sExec2 }) ∨
    (s.seq = .sExec1 ∧ ∃ v, seqFinish s = s.respond v) ∨
    (s.seq = .sExec2 ∧ seqFinish s = State.respond 0x00#8 { s with lock := .free }) := by
  unfold seqFinish
  cases hq : s.seq with
  | sReset | sHoldOn | sHoldOff | sReady | sHalt => exact .inl rfl
  | sOpen | sProbe | sPullup | sDir | sLedsOff | sInten | sDefval | sIntcon | sIntclr | sFlashOn | sFlashOff =>
    exact .inr (.inl ⟨_, ⟨rfl, by decide, by decide⟩, rfl, rfl⟩)
  | sExec2 => exact .inr (.inr (.inr (.inr ⟨rfl, rfl⟩)))
  | sExec1 =>
    simp only [finishExec1]
    cases hi : decodeCommand s.cmdr with
    | setled on p => exact .inr (.inr (.inl ⟨trivial, ⟨on, p, rfl⟩, rfl⟩))
    | setleds | getled | pollbtn | clrint | btnstate => exact .inr (.inr (.inr (.inl ⟨trivial, _, rfl⟩)))
    | init | monstart | monstop | busRd | busWr | busOpen => exact .inl rfl

theorem seqFinish_open {s : State} (h : s.seq = .sOpen) : seqFinish s = { s with seq := .sProbe } := by
  unfold seqFinish
  rw [h]

/-- The end of a monitor transaction: nothing, a detected event with its debounce time, or the clearing read's end. -/
theorem monFinish_cases (s : State) :
    monFinish s = s ∨
    (s.mon = .mIdle ∧ ∃ e, e ≠ .none ∧
      monFinish s = { s with evt := e, dbt := Config.debounceMs, mon := .mDebounce }) ∨
    (s.mon = .mClear ∧ monFinish s = { s with mon := .mDispatch }) := by
  unfold monFinish
  cases hm : s.mon with
  | mOff | mDebounce | mDispatch => exact .inl rfl
  | mClear => exact .inr (.inr ⟨rfl, rfl⟩)
  | mIdle =>
    cases hb : decodeButton s.rdata with
    | none => exact .inl rfl
    | sw1 | sw2 => exact .inr (.inl ⟨rfl, _, by decide, rfl⟩)

@[simp] theorem State.readOk_seq (r : Reg) (v : Byte) (s : State) : (s.readOk r v).seq = s.seq := by
  unfold State.readOk State.readEffect; split <;> rfl

@[simp] theorem State.readOk_handleV (r : Reg) (v : Byte) (s : State) : (s.readOk r v).handleV = s.handleV := by
  unfold State.readOk State.readEffect; split <;> rfl

/-- The hold states of the flash make no transport call. -/
theorem seqRequest_of_holds {s : State} (h : holdsIn s.seq = true) : seqRequest s = none := by
  unfold seqRequest
  cases hq : s.seq with
  | sReset | sHoldOn | sHoldOff | sReady | sHalt => rfl
  | _ => rw [hq] at h; cases h

/-- R162, R164: a hold of the flash ends only when HT is zero. -/
theorem ht_zero_of_hold_ended {a : Answer} {s t : State} (h : runMove (.seq a) s = .next t)
    (hq : holdsIn s.seq = true) (hne : t.seq ≠ s.seq) : s.ht = 0#16 := by
  rcases seqStep_cases a s with hold | ⟨_, hz, _⟩ | ⟨_, hz, _⟩ | ⟨i, hi, _, _⟩
  · rw [runMove, hold] at h
    cases h
    exact absurd rfl hne
  · exact hz
  · exact hz
  · rw [seqRequest_of_holds hq] at hi
    cases hi

/-! ### The peripheral address (R31, R52 item 8) -/

/-- The peripheral address, CFG_BUS with CFG_DEV (R31). -/
def State.address (s : State) : Byte × DevAddr := (s.cfgBus, s.cfgDev)

theorem State.address_readOk (r : Reg) (v : Byte) (s : State) : (s.readOk r v).address = s.address := by
  unfold State.readOk State.readEffect; split <;> rfl

theorem State.address_readErr (r : Reg) (s : State) : (s.readErr r).address = s.address := rfl

theorem State.address_writeOk (r : Reg) (v : Byte) (s : State) : (s.writeOk r v).address = s.address := rfl

theorem State.address_writeErr (r : Reg) (v : Byte) (s : State) : (s.writeErr r v).address = s.address := rfl

theorem State.address_seqFinish (s : State) : (seqFinish s).address = s.address := by
  rcases seqFinish_cases s with e | ⟨_, _, _, e⟩ | ⟨_, _, e⟩ | ⟨_, _, e⟩ | ⟨_, e⟩ <;> rw [e] <;> rfl

theorem State.address_monFinish (s : State) : (monFinish s).address = s.address := by
  rcases monFinish_cases s with e | ⟨_, _, _, e⟩ | ⟨_, e⟩ <;> rw [e] <;> rfl

theorem State.address_offer {w : Byte} {s t : State} (h : runMove (.offer w) s = .next t) (hs : s.seq ≠ .sReset) :
    t.address = s.address := by
  rcases runMove_offer_cases w s with ⟨hq, _⟩ | e | ⟨_, _, e⟩ | ⟨_, _, _, e⟩ | ⟨_, e⟩ | ⟨_, e⟩
  · exact absurd hq hs
  all_goals rw [e] at h; cases h; rfl

theorem State.address_seq {a : Answer} {s t : State} (h : runMove (.seq a) s = .next t) : t.address = s.address := by
  rcases runMove_seq_cases h with
    rfl | ⟨_, rfl⟩ | ⟨_, rfl⟩ | ⟨_, _, rfl⟩ | ⟨_, _, rfl⟩ |
    ⟨_, _, _, r, _, _, ⟨_, rfl⟩ | ⟨v, _, rfl⟩⟩ | ⟨_, _, _, r, v, _, _, _, ⟨_, rfl⟩ | ⟨_, rfl⟩⟩
  exacts [rfl, rfl, rfl, rfl, State.address_seqFinish _, State.address_readErr r _,
    (State.address_seqFinish _).trans (State.address_readOk r v _), State.address_writeErr r v _,
    (State.address_seqFinish _).trans (State.address_writeOk r v _)]

theorem State.address_mon {a : Answer} {s t : State} (h : runMove (.mon a) s = .next t) : t.address = s.address := by
  rcases runMove_mon_cases h with
    rfl | ⟨_, rfl⟩ | ⟨_, _, rfl⟩ | ⟨_, rfl⟩ | ⟨_, _, _, r, _, ⟨_, rfl⟩ | ⟨v, _, rfl⟩⟩
  exacts [rfl, rfl, rfl, rfl, State.address_readErr r _,
    (State.address_monFinish _).trans (State.address_readOk r v _)]

/-- Only an accepted INIT and a reset write the peripheral address. -/
theorem State.address_runMove {m : Move} {s t : State} (h : runMove m s = .next t) (hs : s.seq ≠ .sReset)
    (ht : t.seq ≠ .sReset) : t.address = s.address := by
  cases m with
  | offer w => exact State.address_offer h hs
  | seq a => exact State.address_seq h
  | mon a => exact State.address_mon h
  | tick =>
    cases h
    rcases State.tick_cases s with ⟨_, e⟩ | ⟨_, e⟩ <;> exact (congrArg State.address e).trans rfl
  | consumer ready => cases h; rfl
  | press b =>
    cases h
    obtain ⟨_, _, _, e, _⟩ := State.press_cases s b
    exact (congrArg State.address e).trans rfl
  | release b =>
    cases h
    obtain ⟨_, _, _, _, e, _⟩ := State.release_cases s b
    exact (congrArg State.address e).trans rfl
  | setFlag f => cases h; rfl
  | reset => cases h; exact absurd rfl ht

/-- Settles O17: a step is one move, on a state with the same SEQ and the same peripheral address. -/
theorem peripheralAddressIsImmutable : Obligations.PeripheralAddressIsImmutable := by
  intro s t h hs ht
  obtain ⟨m, rest, d, e⟩ := step_eq_runMove s
  rw [e] at h
  exact Prod.ext_iff.mp (State.address_runMove h hs ht)

end Sys2Proof.Machine

namespace Sys2Proof

open Machine

/-! ### The registers that the invariants speak about, and what INIT configures (R52, R295) -/

/-- `t` has the registers that the invariants speak about as `s` has them. -/
structure SameRegisters (s t : State) : Prop where
  seq : t.seq = s.seq
  mon : t.mon = s.mon
  lock : t.lock = s.lock
  handleV : t.handleV = s.handleV
  handleBus : t.handleBus = s.handleBus
  cfgBus : t.cfgBus = s.cfgBus
  cfgDev : t.cfgDev = s.cfgDev
  evt : t.evt = s.evt
  err : t.err = s.err
  dbt : t.dbt = s.dbt
  ht : t.ht = s.ht

/-- The step of INIT that writes `CFG_BTN` to a configuration register (R154 to R159). -/
def configuredAt : Reg → Option Seq
  | .gppu => some .sPullup
  | .iodir => some .sDir
  | .gpinten => some .sInten
  | .defval => some .sDefval
  | .intcon => some .sIntcon
  | .intf => none
  | .gpio => none
  | .olat => none

/-- The configuration of the expander as one statement over its registers. -/
theorem setUp_iff (s : State) :
    SetUp s ↔ (s.seq ≠ .sReset → s.cfgBus = Config.busNum ∧ s.cfgDev = Config.devAddr) ∧
      (s.handleV = true → s.handleBus = Config.busNum) ∧
      ∀ r q, configuredAt r = some q → Past q s → s.reg r = Config.cfgBtn := by
  constructor
  · rintro ⟨haddr, hbus, hgppu, hiodir, hgpinten, hdefval, hintcon⟩
    refine ⟨haddr, hbus, fun r q hr => ?_⟩
    cases r <;> cases hr <;> assumption
  · rintro ⟨haddr, hbus, hreg⟩
    exact ⟨haddr, hbus, hreg .gppu _ rfl, hreg .iodir _ rfl, hreg .gpinten _ rfl, hreg .defval _ rfl,
      hreg .intcon _ rfl⟩

theorem configuredAt_code {r : Reg} {q : Seq} (h : configuredAt r = some q) :
    3 ≤ q.code.toNat ∧ q.code.toNat ≤ 8 := by
  cases r <;> cases h <;> decide

/-- In its step of INIT the sequencer writes `CFG_BTN` to the register (R154 to R159). -/
theorem seqRequest_of_configuredAt {r : Reg} {s : State} (h : configuredAt r = some s.seq) :
    seqRequest s = some (writeRequest r Config.cfgBtn s) := by
  unfold seqRequest
  cases r with
  | gppu | iodir | gpinten | defval | intcon => injection h with h; rw [← h]
  | intf | gpio | olat => cases h

/-- A write of the access matrix that is not to OLAT writes `CFG_BTN` (R82). -/
theorem eq_cfgBtn_of_wfWrite {r : Reg} {v : Byte} {q : Seq} (h : Instr.wfWrite r.addr v = true)
    (hr : configuredAt r = some q) : v = Config.cfgBtn := by
  have hne : (r.addr == Reg.olat.addr) = false := by cases r <;> cases hr <;> decide
  simp only [Instr.wfWrite, hne, Bool.false_or, Bool.and_eq_true, beq_iff_eq] at h
  exact h.2

/-! ### The LDC's registers keep the invariants (R52) -/

theorem LdcInv.congr {s t : State} (h : LdcInv s) (e : SameRegisters s t) : LdcInv t where
  err_iff_halt := by rw [e.err, e.seq]; exact h.err_iff_halt
  handle_iff := by rw [e.handleV, e.seq]; exact h.handle_iff
  mon_off := by rw [e.mon, e.seq]; exact h.mon_off
  lock_iff := by rw [e.lock, e.seq]; exact h.lock_iff
  lock_not_mon := by rw [e.lock]; exact h.lock_not_mon
  evt_latched := by rw [e.mon, e.evt]; exact h.evt_latched
  dbt_zero := by rw [e.mon, e.dbt]; exact h.dbt_zero
  ht_zero := by rw [e.seq, e.ht]; exact h.ht_zero

/-- A step of the sequencer to a state with the handle open: the monitor's registers and ERR as they were, the lock and
HT as the new state of SEQ wants them. -/
theorem LdcInv.resequence {s t : State} (h : LdcInv s) (hmon : t.mon = s.mon) (hevt : t.evt = s.evt)
    (herr : t.err = s.err) (hdbt : t.dbt = s.dbt) (hrun : s.seq ≠ .sHalt) (hv : t.handleV = true)
    (hopen : handleOpenIn t.seq = true) (hmay : monitorMayRunIn s.seq = true → monitorMayRunIn t.seq = true)
    (hlock : t.lock = .host ↔ t.seq = .sExec2) (hnot : t.lock ≠ .mon) (hht : holdsIn t.seq = false → t.ht = 0#16) :
    LdcInv t where
  err_iff_halt := by
    have hnone : ¬t.err ≠ .none := by rw [herr, h.err_iff_halt]; exact hrun
    have hlive : t.seq ≠ .sHalt := fun e => by rw [e] at hopen; exact absurd hopen (by decide)
    exact ⟨fun e => absurd e hnone, fun e => absurd e hlive⟩
  handle_iff := ⟨fun _ => hopen, fun _ => hv⟩
  mon_off := by rw [hmon]; exact fun e => hmay (h.mon_off e)
  lock_iff := hlock
  lock_not_mon := hnot
  evt_latched := by rw [hmon, hevt]; exact h.evt_latched
  dbt_zero := by rw [hmon, hdbt]; exact h.dbt_zero
  ht_zero := hht

/-- A change of the monitor's registers alone, where the monitor may run and its new state has what it needs. -/
theorem LdcInv.remonitor {s : State} {m : Mon} {e : Event} {d : Ticks} (h : LdcInv s)
    (hmay : m ≠ .mOff → monitorMayRunIn s.seq = true) (hevt : eventLatchedIn m = true → e ≠ .none)
    (hdbt : m ≠ .mDebounce → d = 0#16) : LdcInv { s with mon := m, evt := e, dbt := d } :=
  ⟨h.err_iff_halt, h.handle_iff, hmay, h.lock_iff, h.lock_not_mon, hevt, hdbt, h.ht_zero⟩

/-- R262: after a fatal error everything that the invariants speak about is off or zero. -/
theorem ldcInv_raise {e : ErrCode} (he : e ≠ .none) (info : Byte) (s : State) : LdcInv (s.raise e info) where
  err_iff_halt := ⟨fun _ => rfl, fun _ => he⟩
  handle_iff := by simp [handleOpenIn, Seq.code]
  mon_off := fun h => absurd rfl h
  lock_iff := by simp
  lock_not_mon := by simp
  evt_latched := fun h => nomatch h
  dbt_zero := fun _ => rfl
  ht_zero := fun _ => rfl

/-- R232: the timers that rest at zero stay there on a tick. -/
theorem ldcInv_tick {s : State} (h : LdcInv s) : LdcInv s.tick := by
  rcases State.tick_cases s with ⟨_, e⟩ | ⟨_, e⟩ <;> rw [e]
  · exact h
  · obtain ⟨herr, hhandle, hmon, hlock, hnot, hevt, hdbt, hht⟩ := h
    exact ⟨herr, hhandle, hmon, hlock, hnot, hevt, fun e => by simp [hdbt e], fun e => by simp [hht e]⟩

/-! ### The memory and CMDR -/

theorem MemInv.congr {s t : State} (h : MemInv s) (e : t.mem = s.mem) : MemInv t :=
  ⟨e ▸ h.wf, e ▸ h.addresses⟩

theorem MemInv.store {s t : State} {r : Reg} {v : Byte} (h : MemInv s) (hr : r ≠ .gpio)
    (e : t.mem = Memory.write s.mem r.addr.toNat v) : MemInv t where
  wf := e ▸ Memory.write_wf _ _ v h.wf
  addresses := by
    intro c hc
    rw [e] at hc
    rcases Memory.mem_write _ _ _ _ hc with ⟨rfl, _⟩ | hold
    · exact ⟨r, hr, rfl⟩
    · exact h.addresses c hold

theorem CmdInv.congr {s t : State} (h : CmdInv s) (hq : t.seq = s.seq) (hc : t.cmdr = s.cmdr) : CmdInv t where
  exec1 := by rw [hq, hc]; exact h.exec1
  exec2 := by rw [hq, hc]; exact h.exec2

theorem cmdInv_of_not_busy {s : State} (h1 : s.seq ≠ .sExec1) (h2 : s.seq ≠ .sExec2) : CmdInv s :=
  ⟨fun e => absurd e h1, fun e => absurd e h2⟩

/-! ### What INIT has established -/

/-- A step of the sequencer with the handle open, after which no further configuration step lies behind it, but those
whose register holds its byte. -/
theorem SetUp.resequence {s t : State} (h : SetUp s) (hbus : t.cfgBus = s.cfgBus) (hdev : t.cfgDev = s.cfgDev)
    (hhb : t.handleBus = s.handleBus) (hmem : t.mem = s.mem) (hq : s.seq ≠ .sReset) (hv : s.handleV = true)
    (hpast : ∀ r q, configuredAt r = some q → Past q t → Past q s ∨ s.reg r = Config.cfgBtn) : SetUp t := by
  obtain ⟨haddr, hhandle, hreg⟩ := (setUp_iff s).mp h
  refine (setUp_iff t).mpr ⟨fun _ => ?_, fun _ => ?_, fun r q hr hp => ?_⟩
  · rw [hbus, hdev]; exact haddr hq
  · rw [hhb]; exact hhandle hv
  · rw [State.reg_congr r hmem]
    exact (hpast r q hr hp).elim (hreg r q hr) id

theorem setUp_raise {s : State} (e : ErrCode) (info : Byte)
    (h : s.cfgBus = Config.busNum ∧ s.cfgDev = Config.devAddr) : SetUp (s.raise e info) :=
  (setUp_iff _).mpr ⟨fun _ => h, fun hv => absurd hv (by simp), fun _ _ _ hp => absurd rfl hp.2⟩

/-! ### What a transition keeps -/

/-- `t` is legal, and INIT has established in `t` what it has established in `s`. -/
def Kept (s t : State) : Prop := Legal t ∧ (SetUp s → SetUp t)

theorem Kept.refl {s : State} (h : Legal s) : Kept s s := ⟨h, id⟩

theorem Kept.trans {s t u : State} (h : Kept s t) (k : Legal t → Kept t u) : Kept s u :=
  ⟨(k h.1).1, fun hs => (k h.1).2 (h.2 hs)⟩

/-- Nothing that the invariants speak about has changed. -/
theorem Kept.of_same {s t : State} (h : Legal s) (e : SameRegisters s t) (hcmdr : t.cmdr = s.cmdr)
    (hmem : t.mem = s.mem) : Kept s t := by
  refine ⟨⟨h.ldc.congr e, h.mem.congr hmem, h.cmd.congr e.seq hcmdr⟩, fun hs => ?_⟩
  obtain ⟨haddr, hhandle, hreg⟩ := (setUp_iff s).mp hs
  refine (setUp_iff t).mpr ⟨?_, ?_, fun r q hr hp => ?_⟩
  · rw [e.seq, e.cfgBus, e.cfgDev]; exact haddr
  · rw [e.handleV, e.handleBus]; exact hhandle
  · rw [State.reg_congr r hmem]
    unfold Past at hp
    rw [e.seq] at hp
    exact hreg r q hr hp

/-- A byte stored in the expander, in a configuration register only the byte that INIT puts there. -/
theorem kept_setReg {s : State} {r : Reg} {v : Byte} (h : Legal s) (hr : r ≠ .gpio)
    (hv : ∀ q, configuredAt r = some q → v = Config.cfgBtn) : Kept s (s.setReg r v) := by
  refine ⟨⟨h.ldc.congr (by constructor <;> rfl), h.mem.store hr rfl, h.cmd.congr rfl rfl⟩, fun hs => ?_⟩
  obtain ⟨haddr, hhandle, hreg⟩ := (setUp_iff s).mp hs
  refine (setUp_iff _).mpr ⟨haddr, hhandle, fun r' q hr' hp => ?_⟩
  by_cases e : r' = r
  · subst e
    rw [State.reg_setReg_same s r' v h.mem.wf, hv q hr']
  · rw [State.reg_setReg_other s r r' v e]
    exact hreg r' q hr' hp

/-- INTF is no configuration register: flags that come or go touch nothing the invariants speak about. -/
theorem kept_setIntf {s : State} (v : Byte) (h : Legal s) : Kept s (s.setReg .intf v) :=
  kept_setReg h (by decide) fun _ hq => nomatch hq

/-- A fatal error from a state that has the peripheral address. -/
theorem kept_raise {s u : State} {e : ErrCode} (info : Byte) (he : e ≠ .none) (hq : s.seq ≠ .sReset)
    (haddr : u.address = s.address) (hmem : MemInv u) : Kept s (u.raise e info) := by
  refine ⟨⟨ldcInv_raise he info u, hmem.congr rfl, cmdInv_of_not_busy (by simp) (by simp)⟩, fun hs => ?_⟩
  obtain ⟨hbus, hdev⟩ := Prod.ext_iff.mp haddr
  exact setUp_raise e info ⟨hbus.trans (hs.address hq).1, hdev.trans (hs.address hq).2⟩

theorem Legal.live_of_handle {s : State} (h : Legal s) (hv : s.handleV = true) :
    s.seq ≠ .sReset ∧ s.seq ≠ .sHalt := by
  have hopen := h.ldc.handle_iff.mp hv
  constructor <;> intro e <;> rw [e] at hopen <;> exact absurd hopen (by decide)

theorem Legal.handle_of_open {s : State} (h : Legal s) (hq : handleOpenIn s.seq = true) : s.handleV = true :=
  h.ldc.handle_iff.mpr hq

/-- Outside the second transaction of SETLED nobody holds the lock. -/
theorem Legal.lock_free {s : State} (h : Legal s) (hq : s.seq ≠ .sExec2) : s.lock = .free := by
  cases hl : s.lock with
  | free => rfl
  | host => exact absurd (h.ldc.lock_iff.mp hl) hq
  | mon => exact absurd hl h.ldc.lock_not_mon

theorem callError_ne_none (s : State) : s.callError ≠ .none := by
  unfold State.callError
  split <;> decide

/-! ### Transport calls -/

/-- A read answered with a byte, before the agent goes on: a read of GPIO clears INTF, nothing else is touched. -/
theorem kept_readOk {s : State} {r : Reg} (v : Byte) (who : Agent) (a : Answer) (h : Legal s)
    (hr : r = .intf ∨ r = .gpio) : Kept s (State.readOk r v { s with turn := who, ans := a }) := by
  rcases hr with rfl | rfl
  · exact Kept.of_same h (by constructor <;> rfl) rfl rfl
  · exact (kept_setIntf 0x00#8 h).trans fun hl => Kept.of_same hl (by constructor <;> rfl) rfl rfl

theorem kept_readErr {s : State} (r : Reg) (who : Agent) (a : Answer) (h : Legal s) (hv : s.handleV = true) :
    Kept s (State.readErr r { s with turn := who, ans := a }) :=
  kept_raise r.addr (callError_ne_none _) (h.live_of_handle hv).1 rfl (h.mem.congr rfl)

/-- A write of the access matrix answered ok, before the sequencer goes on. -/
theorem kept_writeOk {s : State} {r : Reg} {v : Byte} (who : Agent) (a : Answer) (h : Legal s) (hr : r ≠ .gpio)
    (hw : Instr.wfWrite r.addr v = true) : Kept s (State.writeOk r v { s with turn := who, ans := a }) :=
  (kept_setReg h hr fun _ hq => eq_cfgBtn_of_wfWrite hw hq).trans fun hl =>
    Kept.of_same hl (by constructor <;> rfl) rfl rfl

theorem kept_writeErr {s : State} {r : Reg} (v : Byte) (who : Agent) (a : Answer) (h : Legal s)
    (hv : s.handleV = true) (hr : r ≠ .gpio) : Kept s (State.writeErr r v { s with turn := who, ans := a }) :=
  kept_raise r.addr (callError_ne_none _) (h.live_of_handle hv).1 rfl (h.mem.store hr rfl)

/-! ### The sequencer (R24) -/

/-- One step further in INIT, with the handle open and HT loaded for nothing but a hold. -/
theorem Legal.initAdvance {s : State} {n : Seq} {c : Ticks} {v : Bool} {b : Byte} (h : Legal s)
    (adv : InitAdvance s.seq n) (hv : v = true) (hc : holdsIn n = false → c = 0#16) :
    Legal { s with seq := n, ht := c, handleV := v, handleBus := b } := by
  obtain ⟨_, hlive, hexec2⟩ := adv.source
  obtain ⟨hn1, hn2, hopen⟩ := adv.target
  have hlock : s.lock = .host ↔ n = .sExec2 := by simp [h.lock_free hexec2, hn2]
  have hmay : monitorMayRunIn s.seq = true → monitorMayRunIn n = true := by simp [adv.monitor_waits]
  exact ⟨h.ldc.resequence rfl rfl rfl rfl hlive hv hopen hmay hlock h.ldc.lock_not_mon hc, h.mem.congr rfl,
    cmdInv_of_not_busy hn1 hn2⟩

/-- INIT after S_OPEN: the step's own configuration register holds its byte, the others as before. -/
theorem kept_initAdvance {s : State} {n : Seq} {c : Ticks} (h : Legal s) (adv : InitAdvance s.seq n)
    (hv : s.handleV = true) (hc : holdsIn n = false → c = 0#16)
    (hcfg : ∀ r, configuredAt r = some s.seq → s.reg r = Config.cfgBtn) :
    Kept s { s with seq := n, ht := c } := by
  refine ⟨h.initAdvance adv hv hc, fun hs => hs.resequence rfl rfl rfl rfl adv.source.1 hv fun r q hr hp => ?_⟩
  have before : Past q s ∨ q = s.seq := InitAdvance.past (t := { s with seq := n, ht := c }) adv hp
  exact before.elim .inl fun e => .inr (hcfg r (e ▸ hr))

/-- From S_INTCLR on, every configuration step is past. -/
theorem past_of_configured {s : State} {r : Reg} {q : Seq} (hr : configuredAt r = some q)
    (hq : 9 ≤ s.seq.code.toNat) (hlive : s.seq ≠ .sHalt) : Past q s :=
  ⟨by have := configuredAt_code hr; omega, hlive⟩

/-- The end of INIT or of a command: the response, with the lock given back and no hold running. -/
theorem kept_respond {s : State} {l : Lock} (v : Byte) (h : Legal s) (hv : s.handleV = true)
    (hq : 13 ≤ s.seq.code.toNat) (hht : s.ht = 0#16) (hl : l = .free) :
    Kept s (State.respond v { s with lock := l }) := by
  obtain ⟨hreset, hlive⟩ := h.live_of_handle hv
  subst hl
  refine ⟨⟨h.ldc.resequence rfl rfl rfl rfl hlive hv rfl (fun _ => rfl) (by simp) (by simp) fun _ => hht,
    h.mem.congr rfl, cmdInv_of_not_busy (by simp) (by simp)⟩, fun hs => ?_⟩
  exact hs.resequence rfl rfl rfl rfl hreset hv fun r q hr _ => .inl (past_of_configured hr (by omega) hlive)

/-- The first transaction of SETLED takes the lock and goes on to the second (R101, R180). -/
theorem kept_exec2 {s : State} {b : Byte} (h : Legal s) (hq : s.seq = .sExec1)
    (hi : ∃ on p, decodeCommand s.cmdr = .setled on p) :
    Kept s { s with tmp := b, lock := .host, seq := .sExec2 } := by
  have hv : s.handleV = true := h.handle_of_open (by rw [hq]; rfl)
  obtain ⟨hreset, hlive⟩ := h.live_of_handle hv
  have hht : s.ht = 0#16 := h.ldc.ht_zero (by rw [hq]; rfl)
  have hwrites : writesBack (decodeCommand s.cmdr) = true := by
    obtain ⟨on, p, hi⟩ := hi
    have hexec := h.cmd.exec1 hq
    rw [hi] at hexec ⊢
    exact hexec
  refine ⟨⟨h.ldc.resequence rfl rfl rfl rfl hlive hv rfl (fun _ => rfl) (by simp) (by simp) fun _ => hht,
    h.mem.congr rfl, ⟨nofun, fun _ => hwrites⟩⟩, fun hs => ?_⟩
  exact hs.resequence rfl rfl rfl rfl hreset hv fun r q hr _ =>
    .inl (past_of_configured hr (by rw [hq]; decide) hlive)

/-- What the sequencer does after an ok answer, where a configuration step's register holds its byte by now. -/
theorem kept_seqFinish {s : State} (h : Legal s) (hv : s.handleV = true)
    (hcfg : ∀ r, configuredAt r = some s.seq → s.reg r = Config.cfgBtn) : Kept s (seqFinish s) := by
  rcases seqFinish_cases s with e | ⟨n, adv, hno, e⟩ | ⟨hq, hi, e⟩ | ⟨hq, v, e⟩ | ⟨hq, e⟩ <;> rw [e]
  · exact Kept.refl h
  · refine kept_initAdvance h adv hv (fun hn => ?_) hcfg
    simpa [hn] using h.ldc.ht_zero hno
  · exact kept_exec2 h hq hi
  · exact kept_respond v h hv (by rw [hq]; decide) (h.ldc.ht_zero (by rw [hq]; rfl))
      (h.lock_free (by rw [hq]; decide))
  · exact kept_respond _ h hv (by rw [hq]; decide) (h.ldc.ht_zero (by rw [hq]; rfl)) rfl

/-- R152: the open call answered ok, and the step to S_PROBE. -/
theorem kept_openOk {s : State} (a : Answer) (h : Legal s) (hq : s.seq = .sOpen) :
    Kept s (seqFinish (State.log (.openBus s.cfgBus true)
      { s with turn := .sequencer, ans := a, handleV := true, handleBus := s.cfgBus })) := by
  have adv : InitAdvance s.seq .sProbe := by rw [hq]; exact ⟨rfl, by decide, by decide⟩
  have hlegal : Legal { s with seq := .sProbe, ht := s.ht, handleV := true, handleBus := s.cfgBus } :=
    h.initAdvance adv rfl fun _ => h.ldc.ht_zero (by rw [hq]; rfl)
  have hsetUp : SetUp s → SetUp { s with seq := .sProbe, ht := s.ht, handleV := true, handleBus := s.cfgBus } := by
    intro hs
    have haddr := hs.address adv.source.1
    refine (setUp_iff _).mpr ⟨fun _ => haddr, fun _ => haddr.1, fun r q hr hp => ?_⟩
    have hlate := configuredAt_code hr
    have hearly : q.code.toNat < 2 := hp.1
    omega
  rw [seqFinish_open]
  · exact Kept.trans ⟨hlegal, hsetUp⟩ fun hl => Kept.of_same hl (by constructor <;> rfl) rfl rfl
  · exact hq

/-- The sequencer's configuration step writes its own register and no other. -/
theorem configured_of_write {s : State} {r q : Reg} {v : Byte} (hi : seqRequest s = some (writeRequest r v s))
    (hq : configuredAt q = some s.seq) : q = r ∧ v = Config.cfgBtn := by
  rw [seqRequest_of_configuredAt hq] at hi
  injection hi with hi
  injection hi with _ haddr hv
  exact ⟨Reg.addr_injective (congrArg BitVec.toNat haddr), hv.symm⟩

theorem not_configured_of_read {s : State} {r q : Reg} (hi : seqRequest s = some (readRequest r s)) :
    configuredAt q ≠ some s.seq := by
  intro hq
  rw [seqRequest_of_configuredAt hq] at hi
  cases hi

theorem kept_seq_readOk {s : State} {r : Reg} (v : Byte) (a : Answer) (h : Legal s) (hv : s.handleV = true)
    (hr : r = .intf ∨ r = .gpio) (hi : seqRequest s = some (readRequest r s)) :
    Kept s (seqFinish (State.readOk r v { s with turn := .sequencer, ans := a })) := by
  refine (kept_readOk v .sequencer a h hr).trans fun hl => ?_
  refine kept_seqFinish hl (by rw [State.readOk_handleV]; exact hv) fun q hq => ?_
  rw [State.readOk_seq] at hq
  exact absurd hq (not_configured_of_read hi)

/-- A write of the sequencer, answered ok: a configuration step's register holds its byte from now on. -/
theorem kept_seq_writeOk {s : State} {r : Reg} {v : Byte} (a : Answer) (h : Legal s) (hv : s.handleV = true)
    (hr : r ≠ .gpio) (hw : Instr.wfWrite r.addr v = true) (hi : seqRequest s = some (writeRequest r v s)) :
    Kept s (seqFinish (State.writeOk r v { s with turn := .sequencer, ans := a })) := by
  refine (kept_writeOk .sequencer a h hr hw).trans fun hl => kept_seqFinish hl hv fun q hq => ?_
  obtain ⟨rfl, rfl⟩ := configured_of_write hi hq
  exact State.reg_setReg_same s q Config.cfgBtn h.mem.wf

/-- A granted step of the sequencer, whatever the transport answers. -/
theorem kept_seq {a : Answer} {s t : State} (h : Legal s) (hm : runMove (.seq a) s = .next t) : Kept s t := by
  rcases runMove_seq_cases hm with
    rfl | ⟨hq, rfl⟩ | ⟨hq, rfl⟩ | ⟨hq, _, rfl⟩ | ⟨hq, _, rfl⟩ |
    ⟨hv, _, _, r, hr, hi, ⟨_, rfl⟩ | ⟨v, _, rfl⟩⟩ | ⟨hv, _, _, r, v, hr, hw, hi, ⟨_, rfl⟩ | ⟨_, rfl⟩⟩
  · exact Kept.refl h
  · have hht := ht_zero_of_hold_ended hm (by rw [hq]; rfl) (by rw [hq]; nofun)
    refine kept_initAdvance h (by rw [hq]; exact ⟨rfl, by decide, by decide⟩)
      (h.handle_of_open (by rw [hq]; rfl)) (fun _ => hht) fun r hr => ?_
    have hlate := configuredAt_code hr
    rw [hq] at hlate
    exact absurd hlate (by decide)
  · have hht := ht_zero_of_hold_ended hm (by rw [hq]; rfl) (by rw [hq]; nofun)
    exact kept_respond _ h (h.handle_of_open (by rw [hq]; rfl)) (by rw [hq]; decide) hht
      (h.lock_free (by rw [hq]; decide))
  · exact kept_raise _ (by decide) (by rw [hq]; decide) rfl (h.mem.congr rfl)
  · exact kept_openOk a h hq
  · exact kept_readErr r .sequencer .err h hv
  · exact kept_seq_readOk v a h hv ((Reg.readable_iff r).mp hr) hi
  · exact kept_writeErr v .sequencer .err h hv ((Reg.writable_iff r).mp hr).2
  · exact kept_seq_writeOk a h hv ((Reg.writable_iff r).mp hr).2 hw hi

/-! ### The monitor (R27) -/

/-- A change of the monitor's registers alone. -/
theorem kept_remonitor {s : State} {m : Mon} {e : Event} {d : Ticks} (h : Legal s)
    (hmay : m ≠ .mOff → monitorMayRunIn s.seq = true) (hevt : eventLatchedIn m = true → e ≠ .none)
    (hdbt : m ≠ .mDebounce → d = 0#16) : Kept s { s with mon := m, evt := e, dbt := d } :=
  ⟨⟨h.ldc.remonitor hmay hevt hdbt, h.mem.congr rfl, h.cmd.congr rfl rfl⟩,
    fun hs => (setUp_iff _).mpr ((setUp_iff s).mp hs)⟩

/-- What the monitor does after an ok answer. -/
theorem kept_monFinish {s : State} (h : Legal s) : Kept s (monFinish s) := by
  rcases monFinish_cases s with e | ⟨hm, ev, hev, e⟩ | ⟨hm, e⟩ <;> rw [e]
  · exact Kept.refl h
  · exact kept_remonitor h (fun _ => h.ldc.mon_off (by rw [hm]; decide)) (fun _ => hev) fun hne => absurd rfl hne
  · exact kept_remonitor h (fun _ => h.ldc.mon_off (by rw [hm]; decide))
      (fun _ => h.ldc.evt_latched (by rw [hm]; rfl)) fun _ => h.ldc.dbt_zero (by rw [hm]; decide)

/-- A granted step of the monitor, whatever the transport answers. -/
theorem kept_mon {a : Answer} {s t : State} (h : Legal s) (hm : runMove (.mon a) s = .next t) : Kept s t := by
  rcases runMove_mon_cases hm with
    rfl | ⟨hq, rfl⟩ | ⟨hq, hd, rfl⟩ | ⟨hq, rfl⟩ | ⟨_, hv, _, r, hr, ⟨_, rfl⟩ | ⟨v, _, rfl⟩⟩
  · exact Kept.refl h
  · exact kept_remonitor h (fun e => absurd rfl e) nofun fun _ =>
      h.ldc.dbt_zero (by rw [hq]; decide)
  · exact kept_remonitor h (fun _ => h.ldc.mon_off (by rw [hq]; decide))
      (fun _ => h.ldc.evt_latched (by rw [hq]; rfl)) fun _ => hd
  · refine (kept_remonitor (m := .mIdle) (e := s.evt) h (fun _ => h.ldc.mon_off (by rw [hq]; decide)) nofun
      fun _ => h.ldc.dbt_zero (by rw [hq]; decide)).trans fun hl => ?_
    exact Kept.of_same hl (by constructor <;> rfl) rfl rfl
  · exact kept_readErr r .monitor .err h hv
  · exact (kept_readOk v .monitor a h (hr.imp And.right And.right)).trans kept_monFinish

/-! ### Offered words (R127) -/

/-- R151: INIT accepted loads the peripheral address; nothing that INIT configures is past in S_OPEN. -/
theorem kept_init {s : State} (w : Byte) (h : Legal s) (hq : s.seq = .sReset) :
    Kept s { s with cmdr := w, cfgBus := Config.busNum, cfgDev := Config.devAddr, seq := .sOpen } := by
  obtain ⟨herr, hhandle, hmon, hlock, hnot, hevt, hdbt, hht⟩ := h.ldc
  rw [hq] at herr hhandle hmon hlock hht
  refine ⟨⟨⟨?_, hhandle, hmon, ?_, hnot, hevt, hdbt, hht⟩, h.mem.congr rfl, cmdInv_of_not_busy nofun nofun⟩,
    fun _ => (setUp_iff _).mpr ⟨fun _ => ⟨rfl, rfl⟩, fun hv => ?_, fun r q hr hp => ?_⟩⟩
  · exact iff_of_false (fun e => nomatch herr.mp e) nofun
  · exact iff_of_false (fun e => nomatch hlock.mp e) nofun
  · exact nomatch hhandle.mp hv
  · have hlate := configuredAt_code hr
    have hearly : q.code.toNat < 1 := hp.1
    omega

/-- A command with a transaction, accepted in S_READY (R24). -/
theorem kept_exec1 {s : State} {w : Byte} (h : Legal s) (hq : s.seq = .sReady)
    (hw : executes (decodeCommand w) = true) : Kept s { s with cmdr := w, seq := .sExec1 } := by
  have hv : s.handleV = true := h.handle_of_open (by rw [hq]; rfl)
  have hht : s.ht = 0#16 := h.ldc.ht_zero (by rw [hq]; rfl)
  obtain ⟨hreset, hlive⟩ := h.live_of_handle hv
  have hlock : s.lock = .host ↔ Seq.sExec1 = .sExec2 := by simp [h.lock_free (by rw [hq]; decide)]
  refine ⟨⟨h.ldc.resequence rfl rfl rfl rfl hlive hv rfl (fun _ => rfl) hlock h.ldc.lock_not_mon fun _ => hht,
    h.mem.congr rfl, ⟨fun _ => hw, nofun⟩⟩, fun hs => ?_⟩
  exact hs.resequence rfl rfl rfl rfl hreset hv fun r q hr _ =>
    .inl (past_of_configured hr (by rw [hq]; decide) hlive)

/-- MON START and MON STOP, accepted in S_READY, with the monitor state `m` that the command gives (R220). -/
theorem kept_monCommand {s : State} {w : Byte} {b : Bool} {m : Mon} (h : Legal s) (hq : s.seq = .sReady)
    (hevt : eventLatchedIn m = true → s.evt ≠ .none) (hdbt : m ≠ .mDebounce → s.dbt = 0#16) :
    Kept s (State.respond 0x00#8 { s with cmdr := w, monEn := b, mon := m }) := by
  have hmon : Kept s { s with mon := m } := kept_remonitor h (fun _ => by rw [hq]; rfl) hevt hdbt
  have hcmd : Legal { s with mon := m } → Kept { s with mon := m } { s with cmdr := w, monEn := b, mon := m } := by
    intro hl
    have idle : CmdInv { s with cmdr := w, monEn := b, mon := m } :=
      cmdInv_of_not_busy (by simp [hq]) (by simp [hq])
    exact ⟨⟨hl.ldc.congr (by constructor <;> rfl), hl.mem.congr rfl, idle⟩,
      fun hs => (setUp_iff _).mpr ((setUp_iff { s with mon := m }).mp hs)⟩
  refine (hmon.trans hcmd).trans fun hl => ?_
  exact kept_respond _ hl (hl.handle_of_open (by simp only [hq]; rfl)) (by simp only [hq]; decide)
    (hl.ldc.ht_zero (by simp only [hq]; rfl)) (hl.lock_free (by simp [hq]))

/-- An offered word, accepted or not. -/
theorem kept_offer {w : Byte} {s t : State} (h : Legal s) (hm : runMove (.offer w) s = .next t) : Kept s t := by
  rcases runMove_offer_cases w s with
    ⟨hq, _, e⟩ | e | ⟨hq, hw, e⟩ | ⟨hq, c, hc, e⟩ | ⟨hq, e⟩ | ⟨hq, e⟩ <;> rw [e] at hm <;> cases hm
  · exact kept_init w h hq
  · exact Kept.refl h
  · exact kept_exec1 h hq hw
  · exact kept_raise w hc (by rw [hq]; decide) rfl (h.mem.congr rfl)
  · by_cases hoff : s.mon = .mOff
    · simp only [if_pos hoff]
      exact kept_monCommand h hq nofun fun _ => h.ldc.dbt_zero (by rw [hoff]; decide)
    · simp only [if_neg hoff]
      exact kept_monCommand h hq h.ldc.evt_latched h.ldc.dbt_zero
  · exact kept_monCommand h hq h.ldc.evt_latched h.ldc.dbt_zero

/-! ### The environment, the reset, every step -/

theorem kept_tick {s : State} (h : Legal s) : Kept s s.tick := by
  have hldc := ldcInv_tick h.ldc
  rcases State.tick_cases s with ⟨_, e⟩ | ⟨_, e⟩ <;> rw [e] at hldc ⊢
  · exact Kept.refl h
  · exact ⟨⟨hldc, h.mem.congr rfl, h.cmd.congr rfl rfl⟩, fun hs => (setUp_iff _).mpr ((setUp_iff s).mp hs)⟩

/-- A press or a release moves a pin and perhaps sets a flag (R96, R97). -/
theorem kept_pinEvent {s : State} {p u v : Byte} {m : List Host.Cell} {d : Nat} (h : Legal s)
    (hm : m = s.mem ∨ m = Memory.write s.mem Reg.intf.addr.toNat v) :
    Kept s { s with pin := p, undriven := u, mem := m, draws := d } := by
  rcases hm with rfl | rfl
  · exact Kept.of_same h (by constructor <;> rfl) rfl rfl
  · exact (kept_setIntf v h).trans fun hl => Kept.of_same hl (by constructor <;> rfl) rfl rfl

theorem ldcInv_reset : LdcInv State.reset := by constructor <;> decide

theorem memInv_of_empty {s : State} (h : s.mem = []) : MemInv s :=
  ⟨h ▸ ⟨.nil, nofun⟩, h ▸ nofun⟩

/-- In S_RESET, with the handle closed, nothing of INIT is behind. -/
theorem setUp_of_reset {s : State} (hq : s.seq = .sReset) (hv : s.handleV = false) : SetUp s := by
  refine (setUp_iff s).mpr ⟨fun e => absurd hq e, fun e => absurd (hv.symm.trans e) (by decide), fun r q _ hp => ?_⟩
  have hcode := hp.1
  rw [hq] at hcode
  exact absurd hcode (Nat.not_lt_zero _)

/-- R290: after a reset the registers are those of the reset state, whatever went before. -/
theorem kept_ldcReset {s : State} (h : Legal s) : Kept s s.ldcReset :=
  ⟨⟨ldcInv_reset.congr (by constructor <;> rfl), h.mem.congr rfl, cmdInv_of_not_busy nofun nofun⟩,
    fun _ => setUp_of_reset rfl rfl⟩

theorem kept_runMove {m : Move} {s t : State} (h : Legal s) (hm : runMove m s = .next t) : Kept s t := by
  cases m with
  | offer w => exact kept_offer h hm
  | seq a => exact kept_seq h hm
  | mon a => exact kept_mon h hm
  | tick => cases hm; exact kept_tick h
  | consumer ready => cases hm; exact Kept.of_same h (by constructor <;> rfl) rfl rfl
  | press b =>
    cases hm
    obtain ⟨p, u, m, e, hmem⟩ := State.press_cases s b
    rw [e]
    exact kept_pinEvent h hmem
  | release b =>
    cases hm
    obtain ⟨p, u, m, d, e, hmem⟩ := State.release_cases s b
    rw [e]
    exact kept_pinEvent h hmem
  | setFlag f => cases hm; exact kept_setIntf _ h
  | reset => cases hm; exact kept_ldcReset h

/-- Settles O15: taking the next move off the list touches no invariant, and each kind of move keeps them. -/
theorem everyStepKeepsLegal : Obligations.EveryStepKeepsLegal := by
  intro s t h hs
  obtain ⟨m, rest, d, e⟩ := step_eq_runMove s
  rw [e] at hs
  have taken : Kept s { s with inputs := rest, draws := d } := Kept.of_same h (by constructor <;> rfl) rfl rfl
  exact taken.trans fun hl => kept_runMove hl hs

theorem legal_reset : Legal State.reset :=
  ⟨ldcInv_reset, memInv_of_empty rfl, cmdInv_of_not_busy nofun nofun⟩

/-- R291: in S_RESET only an INIT is accepted. -/
theorem runMove_offer_reset {w : Byte} (h : opField w ≠ 0b000#3) :
    runMove (.offer w) State.reset = .next State.reset := by
  rcases runMove_offer_cases w State.reset with ⟨_, hop, _⟩ | e | ⟨hq, _⟩ | ⟨hq, _⟩ | ⟨hq, _⟩ | ⟨hq, _⟩
  · exact absurd hop h
  · exact e
  all_goals cases hq

/-- Settles O14: the invariants, what INIT has established and the trace of the reset state, and its offers. -/
theorem resetStateIsLegal : Obligations.ResetStateIsLegal :=
  ⟨legal_reset, setUp_of_reset rfl rfl, rfl, fun _ hw => runMove_offer_reset hw⟩

end Sys2Proof

/-! ## The transport calls and the expander (20_memory.md) -/

namespace Sys2Proof.Machine

/-! ### The access matrix (R80 to R82) -/

theorem Reg.addr_mem_map (r : Reg) :
    r.addr ∈ [0x00#8, 0x02#8, 0x03#8, 0x04#8, 0x06#8, 0x07#8, 0x09#8, 0x0A#8] := by cases r <;> decide

/-- R81: outside the map there is no register. -/
theorem Reg.ofAddr_eq_none {a : Byte}
    (h : a ∉ [0x00#8, 0x02#8, 0x03#8, 0x04#8, 0x06#8, 0x07#8, 0x09#8, 0x0A#8]) : Reg.ofAddr a = none := by
  cases hr : Reg.ofAddr a with
  | none => rfl
  | some r =>
    rw [Reg.ofAddr_eq_some hr] at h
    exact absurd r.addr_mem_map h

theorem Reg.exists_writable_of_mem {a : Byte} (h : a ∈ [0x00#8, 0x02#8, 0x03#8, 0x04#8, 0x06#8, 0x0A#8]) :
    ∃ r : Reg, r.writable = true ∧ r.addr = a := by
  simp only [List.mem_cons, List.not_mem_nil, or_false] at h
  rcases h with rfl | rfl | rfl | rfl | rfl | rfl
  exacts [⟨.iodir, rfl, rfl⟩, ⟨.gpinten, rfl, rfl⟩, ⟨.defval, rfl, rfl⟩, ⟨.intcon, rfl, rfl⟩, ⟨.gppu, rfl, rfl⟩,
    ⟨.olat, rfl, rfl⟩]

theorem Reg.exists_readable_of_mem {a : Byte} (h : a ∈ [0x07#8, 0x09#8]) :
    ∃ r : Reg, r.readable = true ∧ r.addr = a := by
  simp only [List.mem_cons, List.not_mem_nil, or_false] at h
  rcases h with rfl | rfl
  exacts [⟨.intf, rfl, rfl⟩, ⟨.gpio, rfl, rfl⟩]

/-- A register is read or written, never both (R82). -/
theorem Reg.readable_eq_not_writable (r : Reg) : r.readable = !r.writable := by simp [Reg.writable]

/-- What the access matrix lets be written: any byte to OLAT, 0xC0 to the five configuration registers. -/
theorem wfWrite_cases {r : Reg} {v : Byte} (h : Instr.wfWrite r.addr v = true) :
    r = .olat ∨ (r.addr ∈ [0x06#8, 0x00#8, 0x02#8, 0x03#8, 0x04#8] ∧ v = 0xC0#8) := by
  by_cases hr : r = .olat
  · exact .inl hr
  · have hne : (r.addr == Reg.olat.addr) = false :=
      beq_false_of_ne fun e => hr (Reg.addr_injective (congrArg BitVec.toNat e))
    simp only [Instr.wfWrite, hne, Bool.false_or, Bool.and_eq_true, Bool.or_eq_true, beq_iff_eq] at h
    obtain ⟨hreg, hv⟩ := h
    refine .inr ⟨?_, hv⟩
    rcases hreg with (((e | e) | e) | e) | e <;> rw [e] <;> decide

/-! ### One equation per answer of a transport request (R75 to R78) -/

theorem exec_busRd_answered {s : State} {r : Reg} {v : Byte} (x : Byte) (hv : s.handleV = true)
    (hr : r.readable = true) (ha : answeredByte s.ans r s = some v) :
    exec (.busRd s.cfgDev r.addr x) s = .next (s.readOk r v) := by
  rw [exec_busRd x hv hr, State.readCall, ha]

theorem exec_busWr_answered {s : State} {r : Reg} (v : Byte) (hv : s.handleV = true) (hr : r.writable = true)
    (ha : s.ans ≠ .err) : exec (.busWr s.cfgDev r.addr v) s = .next (s.writeOk r v) := by
  rw [exec_busWr v hv hr, State.writeCall, if_neg ha]

theorem exec_busRd_noHandle {s : State} (dev : DevAddr) (reg x : Byte) (h : s.handleV = false) :
    exec (.busRd dev reg x) s = .next s := by simp [exec, execBusRd, h]

theorem exec_busWr_noHandle {s : State} (dev : DevAddr) (reg v : Byte) (h : s.handleV = false) :
    exec (.busWr dev reg v) s = .next s := by simp [exec, execBusWr, h]

theorem exec_busRd_otherDevice {s : State} {dev : DevAddr} (reg x : Byte) (hv : s.handleV = true)
    (hd : dev ≠ s.cfgDev) : exec (.busRd dev reg x) s = .refused (.otherDevice dev) := by
  simp [exec, execBusRd, hv, hd]

theorem exec_busWr_otherDevice {s : State} {dev : DevAddr} (reg v : Byte) (hv : s.handleV = true)
    (hd : dev ≠ s.cfgDev) : exec (.busWr dev reg v) s = .refused (.otherDevice dev) := by
  simp [exec, execBusWr, hv, hd]

theorem exec_busRd_noRegister {s : State} {reg : Byte} (x : Byte) (hv : s.handleV = true)
    (hr : Reg.ofAddr reg = none) : exec (.busRd s.cfgDev reg x) s = .refused (.noSuchRegister reg) := by
  simp [exec, execBusRd, hv, hr]

theorem exec_busWr_noRegister {s : State} {reg : Byte} (v : Byte) (hv : s.handleV = true)
    (hr : Reg.ofAddr reg = none) : exec (.busWr s.cfgDev reg v) s = .refused (.noSuchRegister reg) := by
  simp [exec, execBusWr, hv, hr]

theorem exec_busRd_writable {s : State} {r : Reg} (x : Byte) (hv : s.handleV = true) (hr : r.writable = true) :
    exec (.busRd s.cfgDev r.addr x) s = .refused (.readNotSpecified r.addr) := by
  simp [exec, execBusRd, hv, r.readable_eq_not_writable, hr]

theorem exec_busWr_readable {s : State} {r : Reg} (v : Byte) (hv : s.handleV = true) (hr : r.readable = true) :
    exec (.busWr s.cfgDev r.addr v) s = .refused (.writeNotSpecified r.addr) := by
  simp [exec, execBusWr, hv, Reg.writable, hr]

theorem exec_busOpen_other {s : State} (bus : Byte) (h : s.seq ≠ .sOpen) : exec (.busOpen bus) s = .next s := by
  simp [exec, execBusOpen, h]

theorem exec_busOpen_ok {s : State} (bus : Byte) (h : s.seq = .sOpen) (ha : s.ans ≠ .err) :
    exec (.busOpen bus) s = .next (State.log (.openBus bus true) { s with handleV := true, handleBus := bus }) := by
  simp [exec, execBusOpen, h, ha]

theorem exec_busOpen_err {s : State} (bus : Byte) (h : s.seq = .sOpen) (ha : s.ans = .err) :
    exec (.busOpen bus) s = .next ((s.log (.openBus bus false)).raise .busOpenError 0x00#8) := by
  simp [exec, execBusOpen, h, ha]

/-- Settles O36: an answered read of INTF or GPIO is `State.readOk`, whose fields are these. -/
theorem busRdCompletes : Obligations.BusRdCompletes :=
  fun x _ _ hv => ⟨exec_busRd_answered (r := .intf) x hv rfl, exec_busRd_answered (r := .gpio) x hv rfl⟩

/-- Settles O37: each of the six addresses is that of a written register, and its write is `State.writeOk`. -/
theorem busWrCompletes : Obligations.BusWrCompletes := by
  intro reg v s hv ha hreg
  obtain ⟨r, hr, rfl⟩ := Reg.exists_writable_of_mem hreg
  exact exec_busWr_answered v hv hr ha

/-- Settles O39, from the equations of the two answers. -/
theorem busOpenCompletes : Obligations.BusOpenCompletes :=
  fun bus _ hq => ⟨exec_busOpen_ok bus hq, exec_busOpen_err bus hq⟩

/-- Settles O40: one equation per way in which a request holds or stops. -/
theorem unissuedRequestsHoldOrStop : Obligations.UnissuedRequestsHoldOrStop := by
  intro dev reg v s
  refine ⟨fun hv => ?noHandle, fun hq => exec_busOpen_other v hq, fun hv hd => ?otherDevice,
    fun hv => ⟨fun hreg => ?noRegister, fun hreg => ?writtenOnly, fun hreg => ?readOnly⟩⟩
  case noHandle => exact ⟨exec_busRd_noHandle dev reg v hv, exec_busWr_noHandle dev reg v hv⟩
  case otherDevice => exact ⟨exec_busRd_otherDevice reg v hv hd, exec_busWr_otherDevice reg v hv hd⟩
  case noRegister =>
    have hnone := Reg.ofAddr_eq_none hreg
    exact ⟨exec_busRd_noRegister v hv hnone, exec_busWr_noRegister v hv hnone⟩
  case writtenOnly =>
    obtain ⟨r, hr, rfl⟩ := Reg.exists_writable_of_mem hreg
    exact exec_busRd_writable v hv hr
  case readOnly =>
    obtain ⟨r, hr, rfl⟩ := Reg.exists_readable_of_mem hreg
    exact exec_busWr_readable v hv hr

/-! ### What a byte call leaves unchanged (R83, R84, R93, R263) -/

/-- The pins, the general registers, the events and the responses are the same in `s` and `t`. -/
def CallKeeps (s t : State) : Prop :=
  t.pin = s.pin ∧ t.undriven = s.undriven ∧ t.cmdr = s.cmdr ∧ t.tmp = s.tmp ∧ t.rsp = s.rsp ∧ t.evt = s.evt ∧
  t.cfgBus = s.cfgBus ∧ t.cfgDev = s.cfgDev ∧ t.handleBus = s.handleBus ∧ t.responses = s.responses ∧
  t.events = s.events ∧ t.evtReady = s.evtReady ∧ t.inputs = s.inputs

theorem callKeeps_refl (s : State) : CallKeeps s s := by and_intros <;> rfl

theorem callKeeps_readOk (r : Reg) (v : Byte) (s : State) : CallKeeps s (s.readOk r v) := by
  unfold State.readOk State.readEffect
  split <;> and_intros <;> rfl

theorem callKeeps_readErr (r : Reg) (s : State) : CallKeeps s (s.readErr r) := by and_intros <;> rfl

theorem callKeeps_writeOk (r : Reg) (v : Byte) (s : State) : CallKeeps s (s.writeOk r v) := by and_intros <;> rfl

theorem callKeeps_writeErr (r : Reg) (v : Byte) (s : State) : CallKeeps s (s.writeErr r v) := by and_intros <;> rfl

theorem callKeeps_readCall (r : Reg) (s : State) : CallKeeps s (s.readCall r) := by
  rcases State.readCall_cases r s with ⟨v, _, _, e⟩ | ⟨_, e⟩ <;> rw [e]
  · exact callKeeps_readOk r v s
  · exact callKeeps_readErr r s

theorem callKeeps_writeCall (r : Reg) (v : Byte) (s : State) : CallKeeps s (s.writeCall r v) := by
  rcases State.writeCall_cases r v s with ⟨_, e⟩ | ⟨_, e⟩ <;> rw [e]
  · exact callKeeps_writeOk r v s
  · exact callKeeps_writeErr r v s

/-- R83, R263: only a GPIO read answered with a byte touches the memory, where it clears INTF. -/
theorem State.readCall_mem (r : Reg) (s : State) :
    (s.readCall r).mem = s.mem ∨
      (r = .gpio ∧ s.ans ≠ .err ∧ (s.readCall r).mem = Memory.write s.mem 0x07 0x00#8) := by
  rcases State.readCall_cases r s with ⟨v, _, ha, e⟩ | ⟨_, e⟩ <;> rw [e]
  · by_cases hr : r = .gpio
    · subst hr
      exact .inr ⟨rfl, ha, rfl⟩
    · left
      simp [State.readOk, State.readEffect, hr]
  · exact .inl rfl

theorem State.writeCall_rdata (r : Reg) (v : Byte) (s : State) : (s.writeCall r v).rdata = s.rdata := by
  rcases State.writeCall_cases r v s with ⟨_, e⟩ | ⟨_, e⟩ <;> rw [e] <;> rfl

/-- R84, U7: a write, answered ok or err, reaches no address but its register's. -/
theorem State.writeCall_read_other {r : Reg} {a : Nat} (v : Byte) (s : State) (h : a ≠ r.addr.toNat) :
    Memory.read (s.writeCall r v).mem a = Memory.read s.mem a := by
  rcases State.writeCall_cases r v s with ⟨_, e⟩ | ⟨_, e⟩ <;> rw [e] <;>
    exact Memory.read_write_other s.mem _ _ _ h

/-- Settles O38: a request that has a next state holds, or is a read call or a write call of its register. -/
theorem busCallFrames : Obligations.BusCallFrames := by
  intro dev reg v s t
  refine ⟨fun h => ?read, fun h => ?write⟩
  case read =>
    rw [exec] at h
    rcases execBusRd_cases dev reg v s with
      ⟨_, e⟩ | ⟨_, _, e⟩ | ⟨_, _, _, e⟩ | ⟨_, _, r, hr, _, e⟩ | ⟨_, _, r, _, _, e⟩ <;> rw [e] at h <;> cases h
    · exact ⟨callKeeps_refl s, .inl rfl⟩
    · refine ⟨callKeeps_readCall r s, (State.readCall_mem r s).imp_right fun ⟨hg, ha, hmem⟩ => ⟨?_, ha, hmem⟩⟩
      rw [Reg.ofAddr_eq_some hr, hg]
      rfl
  case write =>
    rw [exec] at h
    rcases execBusWr_cases dev reg v s with
      ⟨_, e⟩ | ⟨_, _, e⟩ | ⟨_, _, _, e⟩ | ⟨_, _, r, hr, _, e⟩ | ⟨_, _, r, _, _, e⟩ <;> rw [e] at h <;> cases h
    · exact ⟨callKeeps_refl s, rfl, fun _ _ => rfl⟩
    · obtain rfl := Reg.ofAddr_eq_some hr
      exact ⟨callKeeps_writeCall r v s, State.writeCall_rdata r v s, fun a ha => State.writeCall_read_other v s ha⟩

end Sys2Proof.Machine

namespace Sys2Proof.Machine

/-! ### The one call a move can make (R74, R81, R82) -/

/-- `c` is a transport call that the move can make in `s`: the open of S_OPEN, a read or a write that the sequencer
requests, or a read of the monitor, with the answer that the move carries. -/
inductive Issues : Move → State → Call → Prop
  | openBus {a : Answer} {s : State} (hq : s.seq = .sOpen) :
    Issues (.seq a) s (.openBus s.cfgBus (decide (a ≠ .err)))
  | seqRead {a : Answer} {s : State} {r : Reg} (hv : s.handleV = true) (hr : r.readable = true)
    (hi : seqRequest s = some (readRequest r s)) : Issues (.seq a) s (.rd r.addr (answeredByte a r s))
  | seqWrite {a : Answer} {s : State} {r : Reg} {v : Byte} (hv : s.handleV = true)
    (hw : Instr.wfWrite r.addr v = true) (hi : seqRequest s = some (writeRequest r v s)) :
    Issues (.seq a) s (.wr r.addr v (decide (a ≠ .err)))
  | monRead {a : Answer} {s : State} {r : Reg} (hv : s.handleV = true) (hl : s.lock = .free)
    (hr : r.readable = true) : Issues (.mon a) s (.rd r.addr (answeredByte a r s))

@[simp] theorem State.readOk_trace (r : Reg) (v : Byte) (s : State) :
    (s.readOk r v).trace = s.trace ++ [.rd r.addr (some v)] := by
  unfold State.readOk State.readEffect
  split <;> rfl

@[simp] theorem State.readErr_trace (r : Reg) (s : State) :
    (s.readErr r).trace = s.trace ++ [.rd r.addr none] := rfl

@[simp] theorem State.writeOk_trace (r : Reg) (v : Byte) (s : State) :
    (s.writeOk r v).trace = s.trace ++ [.wr r.addr v true] := rfl

@[simp] theorem State.writeErr_trace (r : Reg) (v : Byte) (s : State) :
    (s.writeErr r v).trace = s.trace ++ [.wr r.addr v false] := rfl

@[simp] theorem seqFinish_trace (s : State) : (seqFinish s).trace = s.trace := by
  rcases seqFinish_cases s with e | ⟨_, _, _, e⟩ | ⟨_, _, e⟩ | ⟨_, _, e⟩ | ⟨_, e⟩ <;> rw [e] <;> rfl

@[simp] theorem monFinish_trace (s : State) : (monFinish s).trace = s.trace := by
  rcases monFinish_cases s with e | ⟨_, _, _, e⟩ | ⟨_, e⟩ <;> rw [e]

@[simp] theorem monFinish_seq (s : State) : (monFinish s).seq = s.seq := by
  rcases monFinish_cases s with e | ⟨_, _, _, e⟩ | ⟨_, e⟩ <;> rw [e]

@[simp] theorem State.tick_trace (s : State) : s.tick.trace = s.trace := by
  rcases State.tick_cases s with ⟨_, e⟩ | ⟨_, e⟩ <;> rw [e]

@[simp] theorem State.press_trace (b : Button) (s : State) : (s.press b).trace = s.trace := by
  obtain ⟨_, _, _, e, _⟩ := State.press_cases s b
  rw [e]

@[simp] theorem State.release_trace (b : Button) (s : State) : (s.release b).trace = s.trace := by
  obtain ⟨_, _, _, _, e, _⟩ := State.release_cases s b
  rw [e]

/-- R127: an offered word makes no transport call, accepted or not. -/
theorem offer_trace {w : Byte} {s t : State} (h : runMove (.offer w) s = .next t) : t.trace = s.trace := by
  rcases runMove_offer_cases w s with ⟨_, _, e⟩ | e | ⟨_, _, e⟩ | ⟨_, _, _, e⟩ | ⟨_, e⟩ | ⟨_, e⟩ <;>
    rw [e] at h <;> cases h <;> rfl

theorem seq_trace {a : Answer} {s t : State} (h : runMove (.seq a) s = .next t) :
    t.trace = s.trace ∨ ∃ c, Issues (.seq a) s c ∧ t.trace = s.trace ++ [c] := by
  rcases runMove_seq_cases h with
    rfl | ⟨_, rfl⟩ | ⟨_, rfl⟩ | ⟨hq, rfl, rfl⟩ | ⟨hq, ha, rfl⟩ |
    ⟨hv, _, _, r, hr, hi, ⟨rfl, rfl⟩ | ⟨v, hb, rfl⟩⟩ | ⟨hv, _, _, r, v, _, hw, hi, ⟨rfl, rfl⟩ | ⟨ha, rfl⟩⟩
  · exact .inl rfl
  · exact .inl rfl
  · exact .inl rfl
  · exact .inr ⟨_, .openBus hq, rfl⟩
  · exact .inr ⟨_, .openBus hq, by simp [ha]⟩
  · exact .inr ⟨_, .seqRead hv hr hi, rfl⟩
  · exact .inr ⟨_, .seqRead hv hr hi, by simp [hb]⟩
  · exact .inr ⟨_, .seqWrite hv hw hi, rfl⟩
  · exact .inr ⟨_, .seqWrite hv hw hi, by simp [ha]⟩

theorem mon_trace {a : Answer} {s t : State} (h : runMove (.mon a) s = .next t) :
    t.trace = s.trace ∨ ∃ c, Issues (.mon a) s c ∧ t.trace = s.trace ++ [c] := by
  rcases runMove_mon_cases h with
    rfl | ⟨_, rfl⟩ | ⟨_, _, rfl⟩ | ⟨_, rfl⟩ | ⟨_, hv, hl, r, hk, ⟨rfl, rfl⟩ | ⟨v, hb, rfl⟩⟩
  · exact .inl rfl
  · exact .inl rfl
  · exact .inl rfl
  · exact .inl rfl
  · have hr : r.readable = true := (Reg.readable_iff r).mpr (hk.imp And.right And.right)
    exact .inr ⟨_, .monRead hv hl hr, rfl⟩
  · have hr : r.readable = true := (Reg.readable_iff r).mpr (hk.imp And.right And.right)
    exact .inr ⟨_, .monRead hv hl hr, by simp [hb]⟩

/-- A move is a reset, or it appends to the trace nothing or the one call it issues. -/
theorem runMove_trace {m : Move} {s t : State} (h : runMove m s = .next t) :
    (m = .reset ∧ t = s.ldcReset) ∨ t.trace = s.trace ∨ ∃ c, Issues m s c ∧ t.trace = s.trace ++ [c] := by
  cases m with
  | offer w => exact .inr (.inl (offer_trace h))
  | seq a => exact .inr (seq_trace h)
  | mon a => exact .inr (mon_trace h)
  | tick => cases h; exact .inr (.inl s.tick_trace)
  | consumer ready => cases h; exact .inr (.inl rfl)
  | press b => cases h; exact .inr (.inl (s.press_trace b))
  | release b => cases h; exact .inr (.inl (s.release_trace b))
  | setFlag f => cases h; exact .inr (.inl rfl)
  | reset => cases h; exact .inl ⟨rfl, rfl⟩

theorem Reg.addr_of_readable {r : Reg} (h : r.readable = true) : r.addr = 0x07#8 ∨ r.addr = 0x09#8 := by
  rcases (Reg.readable_iff r).mp h with rfl | rfl
  exacts [.inl rfl, .inr rfl]

/-- Every call that is issued is one of the access matrix (R82). -/
theorem Issues.mapped {m : Move} {s : State} {c : Call} (h : Issues m s c) :
    (∃ v, c = .rd 0x07#8 v) ∨ (∃ v, c = .rd 0x09#8 v) ∨ (∃ v ok, c = .wr 0x0A#8 v ok) ∨
    (∃ reg ok, reg ∈ [0x06#8, 0x00#8, 0x02#8, 0x03#8, 0x04#8] ∧ c = .wr reg 0xC0#8 ok) ∨
    ∃ ok, c = .openBus s.cfgBus ok := by
  cases h with
  | openBus => exact .inr (.inr (.inr (.inr ⟨_, rfl⟩)))
  | seqRead _ hr | monRead _ _ hr =>
    rcases Reg.addr_of_readable hr with e | e <;> rw [e]
    · exact .inl ⟨_, rfl⟩
    · exact .inr (.inl ⟨_, rfl⟩)
  | seqWrite _ hw =>
    rcases wfWrite_cases hw with rfl | ⟨hreg, rfl⟩
    · exact .inr (.inr (.inl ⟨_, _, rfl⟩))
    · exact .inr (.inr (.inr (.inl ⟨_, _, hreg, rfl⟩)))

/-- Settles O18: a step is one move, which resets or issues at most one call, and that is one of the matrix. -/
theorem onlyMappedCallsAreIssued : Obligations.OnlyMappedCallsAreIssued := by
  intro s t h
  obtain ⟨m, rest, d, e⟩ := step_eq_runMove s
  rw [e] at h
  rcases runMove_trace h with ⟨_, rfl⟩ | quiet | ⟨c, hc, htr⟩
  · exact .inl ⟨rfl, rfl⟩
  · exact .inr (.inl quiet)
  · exact .inr (.inr ⟨c, htr, hc.mapped⟩)

end Sys2Proof.Machine

namespace Sys2Proof

open Machine

/-! ### The open call (R75) -/

/-- S_RESET and S_OPEN, the states of SEQ before the open call. -/
abbrev unopenedIn (q : Seq) : Prop := q = .sReset ∨ q = .sOpen

theorem not_unopenedIn_of_handleOpenIn {q : Seq} (h : handleOpenIn q = true) : ¬ unopenedIn q := by
  rintro (rfl | rfl) <;> exact absurd h (by decide)

theorem openCalls_append (tr : List Call) (c : Call) : openCalls (tr ++ [c]) = openCalls tr + openCalls [c] :=
  List.countP_append

theorem openOnce_iff_of_opened {s : State} (h : ¬ unopenedIn s.seq) : OpenOnce s ↔ openCalls s.trace = 1 := by
  unfold OpenOnce
  rw [if_neg h]

theorem openOnce_iff_of_unopened {s : State} (h : unopenedIn s.seq) : OpenOnce s ↔ openCalls s.trace = 0 := by
  unfold OpenOnce
  rw [if_pos h]

/-- A step on one side of the open call, without one. -/
theorem OpenOnce.congr {s t : State} (h : OpenOnce s) (hq : unopenedIn t.seq ↔ unopenedIn s.seq)
    (htr : openCalls t.trace = openCalls s.trace) : OpenOnce t := by
  by_cases hs : unopenedIn s.seq
  · rw [openOnce_iff_of_unopened (hq.mpr hs), htr]
    exact (openOnce_iff_of_unopened hs).mp h
  · rw [openOnce_iff_of_opened (mt hq.mp hs), htr]
    exact (openOnce_iff_of_opened hs).mp h

/-- The open call of S_OPEN, whatever the answer, on the way out of S_OPEN. -/
theorem OpenOnce.openCall {s t : State} {bus : Byte} {ok : Bool} (h : OpenOnce s) (hs : s.seq = .sOpen)
    (ht : ¬ unopenedIn t.seq) (htr : t.trace = s.trace ++ [.openBus bus ok]) : OpenOnce t := by
  have hnone : openCalls s.trace = 0 := (openOnce_iff_of_unopened (.inr hs)).mp h
  rw [openOnce_iff_of_opened ht, htr, openCalls_append, hnone]
  rfl

theorem seqFinish_opened {s : State} (h : ¬ unopenedIn s.seq) : ¬ unopenedIn (seqFinish s).seq := by
  rcases seqFinish_cases s with e | ⟨_, adv, _, e⟩ | ⟨_, _, e⟩ | ⟨_, _, e⟩ | ⟨_, e⟩ <;> rw [e]
  · exact h
  · exact not_unopenedIn_of_handleOpenIn adv.target.2.2
  all_goals exact not_unopenedIn_of_handleOpenIn rfl

theorem opened_of_handle {s : State} (h : Legal s) (hv : s.handleV = true) : ¬ unopenedIn s.seq :=
  not_unopenedIn_of_handleOpenIn (h.ldc.handle_iff.mp hv)

/-- R76: only a state after the open call reads or writes, and it stays after it. -/
theorem OpenOnce.byteCall {s t : State} {c : Call} (h : OpenOnce s) (hs : ¬ unopenedIn s.seq)
    (ht : ¬ unopenedIn t.seq) (htr : t.trace = s.trace ++ [c]) (hc : openCalls [c] = 0) : OpenOnce t :=
  h.congr (iff_of_false ht hs) (by rw [htr, openCalls_append, hc, Nat.add_zero])

theorem openOnce_offer {w : Byte} {s t : State} (h : OpenOnce s) (hm : runMove (.offer w) s = .next t) :
    OpenOnce t := by
  refine h.congr ?_ (congrArg openCalls (offer_trace hm))
  rcases runMove_offer_cases w s with
    ⟨hq, _, e⟩ | e | ⟨hq, _, e⟩ | ⟨hq, _, _, e⟩ | ⟨hq, e⟩ | ⟨hq, e⟩ <;> rw [e] at hm <;> cases hm
  · exact iff_of_true (.inr rfl) (.inl hq)
  · exact Iff.rfl
  all_goals
    rw [hq]
    exact iff_of_false nofun nofun

theorem openOnce_seq {a : Answer} {s t : State} (hl : Legal s) (h : OpenOnce s) (hm : runMove (.seq a) s = .next t) :
    OpenOnce t := by
  rcases runMove_seq_cases hm with
    rfl | ⟨hq, rfl⟩ | ⟨hq, rfl⟩ | ⟨hq, _, rfl⟩ | ⟨hq, _, rfl⟩ |
    ⟨hv, _, _, r, _, _, ⟨_, rfl⟩ | ⟨v, _, rfl⟩⟩ | ⟨hv, _, _, r, v, _, _, _, ⟨_, rfl⟩ | ⟨_, rfl⟩⟩
  · exact h
  · exact h.congr (by simp [hq, unopenedIn]) rfl
  · exact h.congr (by simp [hq, unopenedIn]) rfl
  · exact h.openCall hq (by simp) rfl
  · exact h.openCall hq (by rw [seqFinish_open] <;> simp [hq]) (seqFinish_trace _)
  all_goals have hs := opened_of_handle hl hv
  · exact h.byteCall hs (by simp [State.readErr]) (State.readErr_trace r _) rfl
  · exact h.byteCall hs (seqFinish_opened (by rwa [State.readOk_seq]))
      ((seqFinish_trace _).trans (State.readOk_trace r v _)) rfl
  · exact h.byteCall hs (by simp [State.writeErr]) (State.writeErr_trace r v _) rfl
  · exact h.byteCall hs (seqFinish_opened hs) (seqFinish_trace _) rfl

theorem openOnce_mon {a : Answer} {s t : State} (hl : Legal s) (h : OpenOnce s) (hm : runMove (.mon a) s = .next t) :
    OpenOnce t := by
  rcases runMove_mon_cases hm with
    rfl | ⟨_, rfl⟩ | ⟨_, _, rfl⟩ | ⟨_, rfl⟩ | ⟨_, hv, _, r, _, ⟨_, rfl⟩ | ⟨v, _, rfl⟩⟩
  · exact h
  · exact h
  · exact h
  · exact h
  all_goals have hs := opened_of_handle hl hv
  · exact h.byteCall hs (by simp [State.readErr]) (State.readErr_trace r _) rfl
  · exact h.byteCall hs (by rwa [monFinish_seq, State.readOk_seq])
      ((monFinish_trace _).trans (State.readOk_trace r v _)) rfl

theorem openOnce_runMove {m : Move} {s t : State} (hl : Legal s) (h : OpenOnce s) (hm : runMove m s = .next t) :
    OpenOnce t := by
  cases m with
  | offer w => exact openOnce_offer h hm
  | seq a => exact openOnce_seq hl h hm
  | mon a => exact openOnce_mon hl h hm
  | tick =>
    cases hm
    rcases State.tick_cases s with ⟨_, e⟩ | ⟨_, e⟩ <;> rw [e] <;> exact h
  | consumer ready => cases hm; exact h
  | press b =>
    cases hm
    obtain ⟨_, _, _, e, _⟩ := State.press_cases s b
    rw [e]
    exact h
  | release b =>
    cases hm
    obtain ⟨_, _, _, _, e, _⟩ := State.release_cases s b
    rw [e]
    exact h
  | setFlag f => cases hm; exact h
  | reset => cases hm; exact rfl

/-- Settles O19: taking the next move off the list makes no call, and each kind of move keeps the count. -/
theorem openIsIssuedOnce : Obligations.OpenIsIssuedOnce := by
  intro s t hl h hs
  obtain ⟨m, rest, d, e⟩ := step_eq_runMove s
  rw [e] at hs
  have taken : Kept s { s with inputs := rest, draws := d } := Kept.of_same hl (by constructor <;> rfl) rfl rfl
  exact openOnce_runMove taken.1 h hs

end Sys2Proof

namespace Sys2Proof.Machine

/-! ### The two transactions of SETLED (R101, R180) -/

theorem exists_setled_of_writesBack {i : Instr} (h : writesBack i = true) :
    ∃ on p, i = .setled on p ∧ p.toNat ≤ 5 := by
  cases i with
  | setled on p => exact ⟨on, p, rfl, of_decide_eq_true h⟩
  | init | setleds | getled | pollbtn | clrint | btnstate | monstart | monstop | busRd | busWr | busOpen =>
    exact absurd h Bool.false_ne_true

theorem seqRequest_exec2 {s : State} {on : Bool} {p : BitVec 4} (hq : s.seq = .sExec2)
    (hi : decodeCommand s.cmdr = .setled on p) :
    seqRequest s = some (writeRequest .olat (setBit s.tmp p.toNat on) s) := by
  simp [seqRequest, exec2Request, hq, hi]

theorem seqFinish_exec2 {s : State} (h : s.seq = .sExec2) :
    seqFinish s = State.respond 0x00#8 { s with lock := .free } := by
  unfold seqFinish
  rw [h]

/-- No call has been made and SETLED still has the lock, the byte read and the command. -/
def HoldsLock (s t : State) : Prop := t.trace = s.trace ∧ t.lock = .host ∧ t.tmp = s.tmp ∧ t.cmdr = s.cmdr

/-- `v` has been written to OLAT and the lock is free: SETLED has responded, or the write has failed. -/
def WroteBack (v : Byte) (s t : State) : Prop :=
  ∃ ok, t.trace = s.trace ++ [.wr 0x0A#8 v ok] ∧ t.lock = .free ∧
    (if ok then t.seq = .sReady ∧ t.responses = s.responses ++ [0x00#8]
      else t.seq = .sHalt ∧ t.responses = s.responses)

/-- In S_EXEC2 only the sequencer's own step is enabled, and that is the write. -/
theorem wroteBack_seq {a : Answer} {on : Bool} {p : BitVec 4} {s t : State} (hq : s.seq = .sExec2)
    (hi : decodeCommand s.cmdr = .setled on p) (hl : s.lock = .host) (hv : s.handleV = true)
    (h : runMove (.seq a) s = .next t) : WroteBack (setBit s.tmp p.toNat on) s t := by
  have hreq := seqRequest_exec2 hq hi
  have hmay : seqMayCall s = true := by simp [seqMayCall, hq, hv, hl]
  by_cases ha : a = .err
  · subst ha
    rw [runMove, seqStep_call .err hreq hmay, agentCall_write_err _ .sequencer seqFinish hv rfl] at h
    cases h
    exact ⟨false, rfl, rfl, rfl, rfl⟩
  · rw [runMove_seq_write hreq hmay hv rfl ha] at h
    cases h
    rw [seqFinish_exec2]
    · exact ⟨true, rfl, rfl, rfl, rfl⟩
    · exact hq

/-- R127: in S_EXEC2 no word is accepted. -/
theorem holdsLock_offer {w : Byte} {s t : State} (hq : s.seq = .sExec2) (hl : s.lock = .host)
    (h : runMove (.offer w) s = .next t) : HoldsLock s t := by
  rcases runMove_offer_cases w s with ⟨hx, _⟩ | e | ⟨hx, _⟩ | ⟨hx, _⟩ | ⟨hx, _⟩ | ⟨hx, _⟩
  case inr.inl =>
    rw [e] at h
    cases h
    exact ⟨rfl, hl, rfl, rfl⟩
  all_goals cases hq.symm.trans hx

/-- R101: the monitor's calls wait for the lock; its other steps make no call. -/
theorem holdsLock_mon {a : Answer} {s t : State} (hl : s.lock = .host) (h : runMove (.mon a) s = .next t) :
    HoldsLock s t := by
  rcases runMove_mon_cases h with rfl | ⟨_, rfl⟩ | ⟨_, _, rfl⟩ | ⟨_, rfl⟩ | ⟨_, _, hfree, _⟩
  case inr.inr.inr.inr => cases hl.symm.trans hfree
  all_goals exact ⟨rfl, hl, rfl, rfl⟩

theorem runMove_locked {m : Move} {on : Bool} {p : BitVec 4} {s t : State} (hq : s.seq = .sExec2)
    (hi : decodeCommand s.cmdr = .setled on p) (hl : s.lock = .host) (hv : s.handleV = true)
    (h : runMove m s = .next t) :
    HoldsLock s t ∨ (t.trace = [] ∧ t.seq = .sReset) ∨ WroteBack (setBit s.tmp p.toNat on) s t := by
  cases m with
  | offer w => exact .inl (holdsLock_offer hq hl h)
  | seq a => exact .inr (.inr (wroteBack_seq hq hi hl hv h))
  | mon a => exact .inl (holdsLock_mon hl h)
  | tick =>
    cases h
    rcases State.tick_cases s with ⟨_, e⟩ | ⟨_, e⟩ <;> rw [e] <;> exact .inl ⟨rfl, hl, rfl, rfl⟩
  | consumer ready => cases h; exact .inl ⟨rfl, hl, rfl, rfl⟩
  | press b =>
    cases h
    obtain ⟨_, _, _, e, _⟩ := State.press_cases s b
    rw [e]
    exact .inl ⟨rfl, hl, rfl, rfl⟩
  | release b =>
    cases h
    obtain ⟨_, _, _, _, e, _⟩ := State.release_cases s b
    rw [e]
    exact .inl ⟨rfl, hl, rfl, rfl⟩
  | setFlag f => cases h; exact .inl ⟨rfl, hl, rfl, rfl⟩
  | reset => cases h; exact .inr (.inl ⟨rfl, rfl⟩)

/-- Settles O35: a legal state with LOCK = HOST is in S_EXEC2 with a SETLED in CMDR and the handle open. -/
theorem setledPairIsNeverSplit : Obligations.SetledPairIsNeverSplit := by
  intro s t hs hl h
  have hq : s.seq = .sExec2 := hs.ldc.lock_iff.mp hl
  have hv : s.handleV = true := hs.handle_of_open (by rw [hq]; rfl)
  obtain ⟨on, p, hi, hp⟩ := exists_setled_of_writesBack (hs.cmd.exec2 hq)
  obtain ⟨m, rest, d, e⟩ := step_eq_runMove s
  rw [e] at h
  exact ⟨on, p, hi, hp, runMove_locked (s := { s with inputs := rest, draws := d }) hq hi hl hv h⟩

/-! ### A call of the sequencer answered err (R78, R251 to R258) -/

theorem callError_sequencer (s : State) (a : Answer) :
    State.callError { s with turn := .sequencer, ans := a } =
      if s.seq = .sProbe then .deviceNotFoundError else .transportError := by
  simp [State.callError]

/-- The call of S_PROBE is a read (R153). -/
theorem not_probe_of_write {s : State} {r : Reg} {v : Byte} (h : seqRequest s = some (writeRequest r v s)) :
    s.seq ≠ .sProbe := by
  intro hq
  simp [seqRequest, hq, readRequest, writeRequest] at h

/-- Settles O45: the open, read or write that the sequencer requests fails into one fatal error. -/
theorem sequencerCallErrorsHalt : Obligations.SequencerCallErrorsHalt := by
  intro i s hi hm
  have hstep : runMove (.seq .err) s = agentCall .sequencer i .err seqFinish s := seqStep_call .err hi hm
  rcases seqRequest_cases hi with ⟨hq, rfl⟩ | ⟨hq, r, hr, rfl⟩ | ⟨hq, r, v, hr, _, rfl⟩
  · refine ⟨_, hstep.trans (agentCall_open_err _ _ _ hq), ?_⟩
    and_intros <;> rfl
  · have hcall := agentCall_read_err .sequencer seqFinish (seqMayCall_handle hm hq) hr
    refine ⟨_, hstep.trans hcall, rfl, rfl, rfl, rfl, rfl, rfl, rfl, rfl, rfl, rfl, rfl, rfl, rfl, ?_⟩
    exact ⟨callError_sequencer s .err, rfl, rfl, rfl⟩
  · have hcall := agentCall_write_err v .sequencer seqFinish (seqMayCall_handle hm hq) hr
    refine ⟨_, hstep.trans hcall, rfl, rfl, rfl, rfl, rfl, rfl, rfl, rfl, rfl, rfl, rfl, rfl, rfl, ?_⟩
    exact ⟨(callError_sequencer s .err).trans (if_neg (not_probe_of_write hi)), rfl, rfl⟩

/-! ### Runs that the reference peripheral answers (R94, R95, R315) -/

theorem everyStep_of_forall {P : State → Move → State → Prop} {ms : List Move}
    (h : ∀ m ∈ ms, ∀ s t, runMove m s = .next t → P s m t) (s : State) : everyStep P ms s := by
  induction ms generalizing s with
  | nil => trivial
  | cons m ms ih =>
    intro t ht
    exact ⟨h m List.mem_cons_self s t ht, ih (fun n hn => h n (List.mem_cons_of_mem m hn)) t⟩

/-- A call that is a read answered with a byte carries the byte of the move's answer. -/
theorem Issues.answered_read {m : Move} {s : State} {c : Call} {reg v : Byte} (h : Issues m s c)
    (hc : c = .rd reg (some v)) :
    ∃ a r, (m = .seq a ∨ m = .mon a) ∧ r.addr = reg ∧ answeredByte a r s = some v := by
  cases h with
  | openBus | seqWrite => cases hc
  | seqRead =>
    injection hc with hreg hv
    exact ⟨_, _, .inl rfl, hreg, hv⟩
  | monRead =>
    injection hc with hreg hv
    exact ⟨_, _, .inr rfl, hreg, hv⟩

/-- R94, R95: a read that a run of the reference peripheral appends has the byte of that peripheral. -/
theorem read_of_reference {m : Move} {r : Reg} {v : Byte} {s t : State}
    (hm : ∀ a, m = .seq a ∨ m = .mon a → a = .reference) (h : runMove m s = .next t)
    (htr : t.trace = s.trace ++ [.rd r.addr (some v)]) : v = s.rpmRead r := by
  rcases runMove_trace h with ⟨_, rfl⟩ | quiet | ⟨c, hc, happ⟩
  · simp [State.reset] at htr
  · simp [quiet] at htr
  · obtain ⟨a, q, ha, haddr, hb⟩ := hc.answered_read (reg := r.addr) (v := v) (by simpa [happ] using htr)
    obtain rfl := hm a ha
    obtain rfl := Reg.addr_injective (congrArg BitVec.toNat haddr)
    exact (Option.some.inj hb).symm

/-- R85: a GPIO read has the pin levels on the input pins. -/
theorem State.gpio_and_iodir (s : State) : s.gpio &&& s.reg .iodir = s.levels &&& s.reg .iodir := by
  refine BitVec.eq_of_getLsbD_eq fun i _ => ?_
  have hbit := s.gpio_bit i
  unfold getBit at hbit
  rw [BitVec.getLsbD_and, BitVec.getLsbD_and, hbit]
  cases (s.reg .iodir).getLsbD i <;> simp

/-- R90: a GPIO read has the latch on the output pins. -/
theorem readsBack_gpio (s : State) : ReadsBack s.gpio s := by
  intro i _ hout
  have hbit := s.gpio_bit i
  rwa [if_neg (by simpa [getBit] using hout)] at hbit

/-- Settles O54: the bits of the two reads, and per step the byte that the reference peripheral has answered. -/
theorem referenceReads : Obligations.ReferenceReads := by
  refine ⟨fun s => ⟨⟨s.gpio, rfl, fun i _ => s.gpio_bit i⟩, rfl⟩, fun ms s href => ⟨?noError, ?p1to6, ?readback⟩⟩
  case noError =>
    intro a ha herr
    cases (href a ha).symm.trans herr
  all_goals
    have hans : ∀ m ∈ ms, ∀ a, m = .seq a ∨ m = .mon a → a = .reference := by
      rintro m hm a (rfl | rfl)
      exacts [href a (.inl hm), href a (.inr hm)]
  case p1to6 =>
    refine everyStep_of_forall (fun m hm u t ht => ⟨fun v htr => ?_, fun v htr => ?_⟩) s
    · exact read_of_reference (r := .intf) (hans m hm) ht htr
    · rw [read_of_reference (r := .gpio) (hans m hm) ht htr]
      exact u.gpio_and_iodir
  case readback =>
    refine everyStep_of_forall (fun m hm u t ht v htr => ?_) s
    rw [read_of_reference (r := .gpio) (hans m hm) ht htr]
    exact readsBack_gpio u

end Sys2Proof.Machine

namespace Sys2Proof.Machine

/-! ### Pins and their flags (R86, R87, R96 to R98) -/

theorem Button.pin_lt (b : Button) : b.pin < 8 := by cases b <;> decide

/-- `CFG_BTN` has the bits of both buttons. -/
theorem cfgBtn_button (b : Button) : getBit Config.cfgBtn b.pin = true := by cases b <;> decide

theorem State.movePin_mem (s : State) (i : Nat) (level driven flag : Bool) :
    (s.movePin i level driven flag).mem =
      if flag then Memory.write s.mem Reg.intf.addr.toNat (putBit (s.reg .intf) i true) else s.mem := by
  rw [State.movePin_eq]

/-- An event on a pin leaves every byte of the memory but INTF. -/
theorem State.movePin_read_other (s : State) (i : Nat) (level driven flag : Bool) {a : Nat} (h : a ≠ 0x07) :
    Memory.read (s.movePin i level driven flag).mem a = Memory.read s.mem a := by
  rw [State.movePin_mem]
  split
  · exact Memory.read_write_other s.mem _ a _ h
  · rfl

theorem State.movePin_gppu (s : State) (i : Nat) (level driven flag : Bool) :
    (s.movePin i level driven flag).reg .gppu = s.reg .gppu :=
  s.movePin_read_other i level driven flag (by decide)

/-- An event on a pin sets its flag or none. -/
theorem State.movePin_intf_bit {s : State} (h : Memory.wf s.mem) {i q : Nat} (level driven flag : Bool)
    (hi : i < 8) (hq : q < 8) :
    getBit ((s.movePin i level driven flag).reg .intf) q =
      if q = i then getBit (s.reg .intf) q || flag else getBit (s.reg .intf) q := by
  rw [State.reg, State.movePin_mem]
  cases flag with
  | false => simp [State.reg]
  | true => simp [Memory.read_write_same _ _ _ h, getBit_putBit _ _ _ _ hi hq]

/-- R86: the levels of the pins after an event on one of them. -/
theorem State.movePin_levels_bit (s : State) {i q : Nat} (level driven flag : Bool) (hi : i < 8) (hq : q < 8) :
    getBit (s.movePin i level driven flag).levels q =
      if q = i then level || (!driven && getBit (s.reg .gppu) i) else getBit s.levels q := by
  rw [State.levels_bit, State.movePin_gppu, State.movePin_eq]
  simp only [getBit_putBit _ _ _ _ hi hq, State.levels_bit]
  split
  · next e => rw [e]
  · rfl

/-- An event on pin `i` leaves the other pins' levels and flags, and every register but INTF. -/
def OtherPinsKept (i : Nat) (s t : State) : Prop :=
  (∀ q, q < 8 → q ≠ i →
    t.levels.getLsbD q = s.levels.getLsbD q ∧ (t.reg .intf).getLsbD q = (s.reg .intf).getLsbD q) ∧
  ∀ a, a ≠ 0x07 → Memory.read t.mem a = Memory.read s.mem a

theorem otherPinsKept_movePin {s : State} (h : Memory.wf s.mem) {i : Nat} (level driven flag : Bool) (hi : i < 8) :
    OtherPinsKept i s (s.movePin i level driven flag) := by
  refine ⟨fun q hq hne => ⟨?_, ?_⟩, fun a ha => s.movePin_read_other i level driven flag ha⟩
  · exact (s.movePin_levels_bit level driven flag hi hq).trans (if_neg hne)
  · exact (State.movePin_intf_bit h level driven flag hi hq).trans (if_neg hne)

/-- R86: the level at which a pin, as `t` leaves it, reads in every state that pulls it up. -/
def ReadsWhilePulledUp (i : Nat) (t : State) (level : Bool) : Prop :=
  ∀ u : State, u.pin = t.pin → u.undriven = t.undriven → (u.reg .gppu).getLsbD i = true → u.levels.getLsbD i = level

theorem readsWhilePulledUp_movePin (s : State) {i : Nat} (level driven flag : Bool) (hi : i < 8) :
    ReadsWhilePulledUp i (s.movePin i level driven flag) (level || !driven) := by
  intro u hpin hundriven hgppu
  rw [State.movePin_eq] at hpin hundriven
  have hbit := u.levels_bit i
  rw [hpin, hundriven, getBit_putBit _ _ _ _ hi hi, getBit_putBit _ _ _ _ hi hi, if_pos rfl, if_pos rfl] at hbit
  simpa [getBit, hgppu] using hbit

/-- After INIT a button's pin is a watched input, pulled up and compared with the default 1 (R295). -/
theorem configured_button {s : State} (h : Configured s) (b : Button) :
    getBit (s.reg .gpinten) b.pin = true ∧ getBit (s.reg .iodir) b.pin = true ∧
    getBit (s.reg .intcon) b.pin = true ∧ getBit (s.reg .defval) b.pin = true ∧
    getBit (s.reg .gppu) b.pin = true := by
  rw [h.gpinten, h.iodir, h.intcon, h.defval, h.gppu]
  exact ⟨cfgBtn_button b, cfgBtn_button b, cfgBtn_button b, cfgBtn_button b, cfgBtn_button b⟩

/-! ### Press (R96) -/

theorem State.press_eq (b : Button) (s : State) :
    s.press b =
      { s with mem := (s.press b).mem, pin := (s.press b).pin, undriven := (s.press b).undriven } := by
  obtain ⟨_, _, _, e, _⟩ := s.press_cases b
  rw [e]

/-- R96: a press latches at a watched input that leaves its default 1 (INTCON = 1) or its level 1 (INTCON = 0). -/
theorem State.changeInterrupts_press (i : Nat) (old : Bool) (s : State) :
    s.changeInterrupts i old false =
      (getBit (s.reg .gpinten) i && getBit (s.reg .iodir) i &&
        if getBit (s.reg .intcon) i then getBit (s.reg .defval) i else old) := by
  unfold State.changeInterrupts
  cases getBit (s.reg .intcon) i <;> simp

theorem State.press_level (b : Button) (s : State) : getBit (s.press b).levels b.pin = false :=
  (s.movePin_levels_bit false true _ b.pin_lt b.pin_lt).trans (if_pos rfl)

theorem State.press_flag (b : Button) {s : State} (h : Memory.wf s.mem) :
    getBit ((s.press b).reg .intf) b.pin =
      (getBit (s.reg .intf) b.pin || (getBit (s.reg .gpinten) b.pin && getBit (s.reg .iodir) b.pin &&
        if getBit (s.reg .intcon) b.pin then getBit (s.reg .defval) b.pin else getBit s.levels b.pin)) := by
  rw [← State.changeInterrupts_press]
  exact (State.movePin_intf_bit h false true _ b.pin_lt b.pin_lt).trans (if_pos rfl)

theorem State.press_flag_configured (b : Button) {s : State} (h : Memory.wf s.mem) (hc : Configured s) :
    getBit ((s.press b).reg .intf) b.pin = true := by
  obtain ⟨hwatch, hinput, hcompare, hdefault, _⟩ := configured_button hc b
  rw [State.press_flag b h]
  simp [hwatch, hinput, hcompare, hdefault]

/-! ### Release (R97) -/

theorem State.release_eq (b : Button) (s : State) :
    s.release b =
      { s with
        mem := (s.release b).mem, pin := (s.release b).pin, undriven := (s.release b).undriven,
        draws := (s.release b).draws } := by
  obtain ⟨_, _, _, _, e, _⟩ := s.release_cases b
  rw [e]

/-- A release without the free value that it may draw. -/
def State.releasePin (b : Button) (s : State) : State :=
  s.movePin b.pin (s.releasedLevel b) (getBit (s.reg .gppu) b.pin) (s.releaseInterrupts b)

theorem State.release_eq_releasePin (b : Button) (s : State) :
    s.release b =
      { s.releasePin b with draws := bif getBit (s.reg .gppu) b.pin then s.draws else s.draws + 1 } := by
  rw [State.release, State.releasePin, State.movePin_eq, State.movePin_eq]
  rfl

theorem State.release_reg (b : Button) (s : State) (r : Reg) : (s.release b).reg r = (s.releasePin b).reg r := by
  rw [State.release_eq_releasePin]
  rfl

theorem State.release_levels (b : Button) (s : State) : (s.release b).levels = (s.releasePin b).levels := by
  rw [State.release_eq_releasePin]
  rfl

theorem State.release_draws {b : Button} {s : State} (h : getBit (s.reg .gppu) b.pin = true) :
    (s.release b).draws = s.draws := by
  simp [State.release_eq_releasePin, h]

theorem otherPinsKept_release (b : Button) {s : State} (h : Memory.wf s.mem) :
    OtherPinsKept b.pin s (s.release b) := by
  rw [State.release_eq_releasePin]
  exact otherPinsKept_movePin h _ _ _ b.pin_lt

/-- R97, log 12: a released pin is at 1 if GPPU pulls it up, else at its free level. -/
theorem State.release_level (b : Button) (s : State) : getBit (s.release b).levels b.pin = s.releasedLevel b := by
  rw [State.release_levels, State.releasePin, State.movePin_levels_bit _ _ _ _ b.pin_lt b.pin_lt, if_pos rfl,
    Bool.not_and_self, Bool.or_false]

/-- R86: a released pin is pulled up by every GPPU that has its bit. -/
theorem State.release_readsWhilePulledUp (b : Button) (s : State) :
    ReadsWhilePulledUp b.pin (s.release b) true := by
  have hlevel : (s.releasedLevel b || !getBit (s.reg .gppu) b.pin) = true := by
    unfold State.releasedLevel
    cases getBit (s.reg .gppu) b.pin <;> simp
  rw [← hlevel, State.release_eq_releasePin]
  exact readsWhilePulledUp_movePin s _ _ _ b.pin_lt

/-- R87, log 13: at a pin that is not compared with the default 1, the flag follows the general rule. -/
theorem State.releaseInterrupts_eq {b : Button} {s : State}
    (h : (getBit (s.reg .intcon) b.pin && getBit (s.reg .defval) b.pin) = false) :
    s.releaseInterrupts b =
      (getBit (s.reg .gpinten) b.pin && getBit (s.reg .iodir) b.pin &&
        if getBit (s.reg .intcon) b.pin then s.releasedLevel b
        else s.releasedLevel b != getBit s.levels b.pin) := by
  unfold State.releaseInterrupts State.changeInterrupts
  rw [h]
  cases hi : getBit (s.reg .intcon) b.pin with
  | false => simp
  | true =>
    have hd : getBit (s.reg .defval) b.pin = false := by simpa [hi] using h
    simp [hd]

theorem State.release_flag {b : Button} {s : State} (h : Memory.wf s.mem)
    (hcompare : (getBit (s.reg .intcon) b.pin && getBit (s.reg .defval) b.pin) = false) :
    getBit ((s.release b).reg .intf) b.pin =
      (getBit (s.reg .intf) b.pin || (getBit (s.reg .gpinten) b.pin && getBit (s.reg .iodir) b.pin &&
        if getBit (s.reg .intcon) b.pin then getBit (s.release b).levels b.pin
        else getBit (s.release b).levels b.pin != getBit s.levels b.pin)) := by
  rw [State.release_level, ← State.releaseInterrupts_eq hcompare, State.release_reg]
  exact (State.movePin_intf_bit h _ _ _ b.pin_lt b.pin_lt).trans (if_pos rfl)

/-- R97: after INIT a release moves its pin and nothing else. -/
theorem State.release_configured {b : Button} {s : State} (hc : Configured s) :
    s.release b = { s with pin := (s.release b).pin, undriven := (s.release b).undriven } := by
  obtain ⟨_, _, hcompare, hdefault, hpull⟩ := configured_button hc b
  rw [State.release_eq b s, State.release_mem hcompare hdefault, State.release_draws hpull]

/-- Settles O55: a press and a release are an event on the button's pin, SetFlag a store in INTF. -/
theorem pressAndReleaseAfterInit : Obligations.PressAndReleaseAfterInit := by
  intro b m s hs
  have hwf := hs.mem.wf
  refine ⟨⟨s.press b, rfl, ?_, s.press_eq b, s.press_level b, ?_, State.press_flag b hwf,
      State.press_flag_configured b hwf⟩,
    ⟨s.release b, rfl, otherPinsKept_release b hwf, s.release_eq b, s.release_readsWhilePulledUp b,
      fun hpull => ⟨?_, State.release_draws hpull⟩, State.release_mem, State.release_flag hwf,
      State.release_configured⟩, rfl⟩
  · exact otherPinsKept_movePin hwf _ _ _ b.pin_lt
  · exact readsWhilePulledUp_movePin s _ _ _ b.pin_lt
  · exact (s.release_level b).trans (Bool.or_eq_true_iff.mpr (.inl hpull))

end Sys2Proof.Machine

/-! ## Words, the decoder and the encoder (30_encoding.md) -/

namespace Sys2Proof

/-! ### The fields of a word (R111, R76) -/

/-- A word is its top bit before the bits below it. -/
theorem ofBool_append_extractLsb' {n : Nat} (x : BitVec (1 + n)) :
    BitVec.ofBool (x.getLsbD n) ++ x.extractLsb' 0 n = x := by
  have top : BitVec.ofBool (x.getLsbD n) = x.extractLsb' n 1 := by
    ext i hi
    obtain rfl : i = 0 := by omega
    simp
  rw [top]
  exact BitVec.extractLsb'_append_extractLsb'

@[simp] theorem opField_wordOpX (op : BitVec 3) (x : BitVec 5) : opField (wordOpX op x) = op :=
  BitVec.extractLsb'_append_eq_left

@[simp] theorem lowField_wordOpX (op : BitVec 3) (x : BitVec 5) : lowField (wordOpX op x) = x :=
  BitVec.extractLsb'_append_eq_right

@[simp] theorem opField_wordOpSP (op : BitVec 3) (s : Bool) (p : BitVec 4) : opField (wordOpSP op s p) = op :=
  opField_wordOpX op (BitVec.ofBool s ++ p)

@[simp] theorem stateField_wordOpSP (op : BitVec 3) (s : Bool) (p : BitVec 4) :
    stateField (wordOpSP op s p) = s := by
  unfold stateField wordOpSP
  rw [BitVec.getLsbD_append, BitVec.getLsbD_append]
  simp

@[simp] theorem pinField_wordOpSP (op : BitVec 3) (s : Bool) (p : BitVec 4) : pinField (wordOpSP op s p) = p :=
  (BitVec.extractLsb'_append_eq_of_add_le (by decide)).trans BitVec.extractLsb'_append_eq_right

theorem wordOpX_fields (w : Byte) : wordOpX (opField w) (lowField w) = w :=
  BitVec.extractLsb'_append_extractLsb' (w := 3) (len := 5)

theorem stateField_append_pinField (w : Byte) : BitVec.ofBool (stateField w) ++ pinField w = lowField w := by
  have hs : stateField w = (lowField w).getLsbD 4 := by simp [stateField, lowField]
  have hp : pinField w = (lowField w).extractLsb' 0 4 := by ext; simp [pinField, lowField]
  rw [hs, hp]
  exact ofBool_append_extractLsb' (n := 4) (lowField w)

theorem wordOpSP_fields (w : Byte) : wordOpSP (opField w) (stateField w) (pinField w) = w :=
  (congrArg (wordOpX (opField w)) (stateField_append_pinField w)).trans (wordOpX_fields w)

/-! ### Decoding what was encoded (R112, R117) -/

/-- The decoder finds the opcode and each field of a command word where the encoder put it. -/
theorem decodeCommand_commandWord {i : Instr} (h : i.format = .cmd8) : decodeCommand (commandWord i) = i := by
  cases i with
  | init | setled | setleds | getled | pollbtn | clrint | btnstate | monstart | monstop =>
    simp [commandWord, encode, decodeCommand]
  | busRd | busWr | busOpen => cases h

theorem encode_command {i : Instr} (h : i.format = .cmd8) : encode i = [commandWord i] := by
  cases i with
  | init | setled | setleds | getled | pollbtn | clrint | btnstate | monstart | monstop => rfl
  | busRd | busWr | busOpen => cases h

theorem decode_encode_command {i : Instr} (h : i.format = .cmd8) : decode i.format (encode i) = .ok i := by
  rw [h, encode_command h]
  exact congrArg Except.ok (decodeCommand_commandWord h)

/-- Settles O2: per port, the commands by `decodeCommand_commandWord`, the requests by the lemmas on their words. -/
theorem encodedInstructionsDecodeBack : Obligations.EncodedInstructionsDecodeBack := by
  intro i
  cases i with
  | init | setled | setleds | getled | pollbtn | clrint | btnstate | monstart | monstop =>
    exact decode_encode_command rfl
  | busRd dev reg x => exact decode_encode_busRd dev reg x
  | busWr dev reg v => exact decode_encode_busWr dev reg v
  | busOpen bus => exact decode_encode_busOpen bus

/-! ### Encoding what was decoded (R119, R120) -/

theorem wordOpX_of_opField {op : BitVec 3} {w : Byte} (h : (opField w).toNat = op.toNat) :
    wordOpX op (lowField w) = w := by
  rw [← BitVec.eq_of_toNat_eq h, wordOpX_fields]

theorem wordOpSP_of_opField {op : BitVec 3} {w : Byte} (h : (opField w).toNat = op.toNat) :
    wordOpSP op (stateField w) (pinField w) = w := by
  rw [← BitVec.eq_of_toNat_eq h, wordOpSP_fields]

@[simp] theorem decodeCommand_format (w : Byte) : (decodeCommand w).format = .cmd8 := by
  unfold decodeCommand
  split
  case h_8 => cases stateField w <;> rfl
  all_goals rfl

/-- The decoder's eight opcodes are the encoder's, and each field goes back to where it was read. -/
@[simp] theorem encode_decodeCommand (w : Byte) : encode (decodeCommand w) = [w] := by
  have hlt := (opField w).isLt
  unfold decodeCommand
  split
  case h_1 h => rw [encode, wordOpX_of_opField]; exact h
  case h_2 h => rw [encode, wordOpSP_of_opField]; exact h
  case h_3 h => rw [encode, wordOpSP_of_opField]; exact h
  case h_4 h => rw [encode, wordOpSP_of_opField]; exact h
  case h_5 h => rw [encode, wordOpX_of_opField]; exact h
  case h_6 h => rw [encode, wordOpX_of_opField]; exact h
  case h_7 h => rw [encode, wordOpSP_of_opField]; exact h
  case h_8 =>
    have h7 : (opField w).toNat = (0b111#3).toNat := by
      simp only [imp_false, BitVec.reduceToNat] at *
      omega
    have hw := wordOpSP_of_opField h7
    cases hs : stateField w <;> rw [hs] at hw <;> exact congrArg (fun v => [v]) hw

@[simp] theorem commandWord_decodeCommand (w : Byte) : commandWord (decodeCommand w) = w := by simp [commandWord]

theorem format_encode_decodeRequest (hi mid lo : Byte) :
    (decodeRequest hi mid lo).format = .busReq24 ∧ encode (decodeRequest hi mid lo) = [lo, mid, hi] := by
  have high := ofBool_append_extractLsb' (n := 7) hi
  cases rnw : hi.getLsbD 7
  case false =>
    rw [rnw] at high
    simp only [decodeRequest, rnw, cond_false]
    exact ⟨rfl, congrArg (fun v => [lo, mid, v]) high⟩
  case true =>
    rw [rnw] at high
    simp only [decodeRequest, rnw, cond_true]
    exact ⟨rfl, congrArg (fun v => [lo, mid, v]) high⟩

/-- What decodes is a word of the port's length, read by that port's decoder. -/
theorem decode_eq_ok {fmt : Format} {bytes : List Byte} {i : Instr} (h : decode fmt bytes = .ok i) :
    (∃ w, fmt = .cmd8 ∧ bytes = [w] ∧ i = decodeCommand w) ∨
    (∃ hi mid lo, fmt = .busReq24 ∧ bytes = [lo, mid, hi] ∧ i = decodeRequest hi mid lo) ∨
    (∃ n, fmt = .openReq8 ∧ bytes = [n] ∧ i = .busOpen n) := by
  unfold decode at h
  split at h <;> cases h
  · exact .inl ⟨_, rfl, rfl, rfl⟩
  · exact .inr (.inl ⟨_, _, _, rfl, rfl, rfl⟩)
  · exact .inr (.inr ⟨_, rfl, rfl, rfl⟩)

/-- Settles O3: at each port the decoder's result is the encoding of the bytes read. -/
theorem decodedBytesEncodeBack : Obligations.DecodedBytesEncodeBack := by
  intro fmt bytes i h
  rcases decode_eq_ok h with ⟨w, rfl, rfl, rfl⟩ | ⟨hi, mid, lo, rfl, rfl, rfl⟩ | ⟨n, rfl, rfl, rfl⟩
  · exact ⟨decodeCommand_format w, encode_decodeCommand w⟩
  · exact format_encode_decodeRequest hi mid lo
  · exact ⟨rfl, rfl⟩

theorem decode_of_length {fmt : Format} {bytes : List Byte} (h : bytes.length = fmt.bytes) :
    ∃ i, decode fmt bytes = .ok i := by
  cases fmt with
  | cmd8 =>
    obtain ⟨w, rfl⟩ := List.length_eq_one_iff.mp h
    exact ⟨_, rfl⟩
  | busReq24 =>
    obtain ⟨lo, mid, hi, rfl⟩ := List.length_eq_three.mp h
    exact ⟨_, rfl⟩
  | openReq8 =>
    obtain ⟨n, rfl⟩ := List.length_eq_one_iff.mp h
    exact ⟨_, rfl⟩

theorem decode_of_length_ne {fmt : Format} {bytes : List Byte} (h : bytes.length ≠ fmt.bytes) :
    decode fmt bytes = .error (.wrongLength fmt bytes.length) := by
  unfold decode
  split
  case h_4 => rfl
  all_goals exact absurd rfl h

/-- Settles O4: each port decodes every string of its own length and no other. -/
theorem onlyWrongLengthsAreRefused : Obligations.OnlyWrongLengthsAreRefused :=
  fun _ _ => ⟨decode_of_length, decode_of_length_ne⟩

end Sys2Proof

namespace Sys2Proof.Machine

/-! ### Acceptance (R110, R127) -/

/-- What the acceptance of a command other than INIT does after it has written the word to CMDR. -/
def startCommand : Instr → State → State
  | .setled on p => State.checkLed (commandWord (.setled on p)) p
  | .getled x p => State.checkLed (commandWord (.getled x p)) p
  | .btnstate x p => fun s =>
    bif isSw p then { s with seq := .sExec1 } else s.raise .invalidButtonError (commandWord (.btnstate x p))
  | .setleds _ _ | .pollbtn _ | .clrint _ => fun s => { s with seq := .sExec1 }
  | .monstart _ => fun s =>
    State.respond 0x00#8 { s with monEn := true, mon := if s.mon = .mOff then .mIdle else s.mon }
  | .monstop _ => fun s => State.respond 0x00#8 { s with monEn := false }
  | .init _ | .busRd _ _ _ | .busWr _ _ _ | .busOpen _ => id

/-- R127: every command except INIT runs through `State.accept`. -/
theorem exec_command {i : Instr} (s : State) (hi : i.format = .cmd8) (hinit : ∀ x, i ≠ .init x) :
    exec i s = .next (s.accept (commandWord i) (startCommand i)) := by
  cases i with
  | init x => exact absurd rfl (hinit x)
  | setled | setleds | getled | pollbtn | clrint | btnstate | monstart | monstop => rfl
  | busRd | busWr | busOpen => cases hi

theorem exec_init_reset {s : State} (x : BitVec 5) (h : s.seq = .sReset) :
    exec (.init x) s = .next { s with
      cmdr := wordOpX 0b000#3 x, cfgBus := Config.busNum, cfgDev := Config.devAddr, seq := .sOpen } :=
  congrArg _ (if_pos h)

theorem exec_init_other {s : State} (x : BitVec 5) (h : s.seq ≠ .sReset) : exec (.init x) s = .next s :=
  congrArg _ (if_neg h)

/-- R110: what acceptance does after the write of CMDR does not look at CMDR and keeps it. -/
theorem startCommand_setCmdr (i : Instr) (w : Byte) (s : State) :
    startCommand i { s with cmdr := w } = { startCommand i s with cmdr := w } := by
  cases i with
  | setled on p => cases h : isLed p <;> simp [startCommand, State.checkLed, h, State.raise]
  | getled x p => cases h : isLed p <;> simp [startCommand, State.checkLed, h, State.raise]
  | btnstate x p => cases h : isSw p <;> simp [startCommand, h, State.raise]
  | init | setleds | pollbtn | clrint | monstart | monstop | busRd | busWr | busOpen => rfl

/-- An accepted command starts, and its word is in CMDR. -/
theorem exec_accepted {i : Instr} {s : State} (hs : s.seq = .sReady) (hi : i.format = .cmd8)
    (hinit : ∀ x, i ≠ .init x) : exec i s = .next { startCommand i s with cmdr := commandWord i } := by
  rw [exec_command s hi hinit, State.accept_ready hs, startCommand_setCmdr]

theorem State.checkLed_of_isLed (word : Byte) {p : BitVec 4} (s : State) (h : isLed p = true) :
    s.checkLed word p = { s with seq := .sExec1 } := by
  simp [State.checkLed, h]

theorem decodeCommand_init {w : Byte} (h : opField w = 0b000#3) : decodeCommand w = .init (lowField w) := by
  simp [decodeCommand, h]

theorem decodeCommand_ne_init {w : Byte} (h : opField w ≠ 0b000#3) (x : BitVec 5) : decodeCommand w ≠ .init x := by
  intro e
  have hw : w = wordOpX 0b000#3 x := (commandWord_decodeCommand w).symm.trans (congrArg commandWord e)
  exact h (hw ▸ opField_wordOpX 0b000#3 x)

theorem runMove_offer_ready {w : Byte} {s : State} (hs : s.seq = .sReady) (h : opField w ≠ 0b000#3) :
    runMove (.offer w) s = .next { startCommand (decodeCommand w) s with cmdr := w } := by
  have e := exec_accepted hs (decodeCommand_format w) (decodeCommand_ne_init h)
  rwa [commandWord_decodeCommand] at e

theorem runMove_offer_notReady {w : Byte} {s : State} (hs : s.seq ≠ .sReady) (h : opField w ≠ 0b000#3) :
    runMove (.offer w) s = .next s := by
  have e := exec_command s (decodeCommand_format w) (decodeCommand_ne_init h)
  rwa [State.accept_other hs] at e

theorem runMove_offer_init {w : Byte} (s : State) (h : opField w = 0b000#3) :
    runMove (.offer w) s = exec (.init (lowField w)) s :=
  congrArg (exec · s) (decodeCommand_init h)

/-- Settles O21: INIT by its two equations, every other command by those of an offer in S_READY and elsewhere. -/
theorem unacceptedWordsHaveNoEffect : Obligations.UnacceptedWordsHaveNoEffect := by
  intro w s isInit accepted
  by_cases hop : opField w = 0b000#3
  case pos =>
    rw [runMove_offer_init s hop]
    refine ⟨?_, fun hno => exec_init_other _ fun hq => hno (.inl ⟨hq, hop⟩)⟩
    rintro (⟨hq, -⟩ | ⟨-, hne⟩)
    · exact ⟨_, exec_init_reset _ hq, wordOpX_of_opField (congrArg BitVec.toNat hop)⟩
    · exact absurd hop hne
  case neg =>
    refine ⟨?_, fun hno => runMove_offer_notReady (fun hq => hno (.inr ⟨hq, hop⟩)) hop⟩
    rintro (⟨-, heq⟩ | ⟨hq, -⟩)
    · exact absurd heq hop
    · exact ⟨_, runMove_offer_ready hq hop, rfl⟩

/-! ### Ignored fields (R117) -/

/-- Two commands that start alike differ in the word that CMDR shows and in nothing else. -/
theorem exec_startedAlike {i j : Instr} {s : State} (hs : s.seq = .sReady) (hi : i.format = .cmd8)
    (hj : j.format = .cmd8) (hiinit : ∀ x, i ≠ .init x) (hjinit : ∀ x, j ≠ .init x)
    (halike : startCommand i s = startCommand j s) :
    ∃ t, exec i s = .next t ∧ exec j s = .next { t with cmdr := commandWord j } := by
  refine ⟨_, exec_accepted hs hi hiinit, ?_⟩
  rw [exec_accepted hs hj hjinit, halike]

theorem startCommand_getled {p : BitVec 4} (x : Bool) (s : State) (h : isLed p = true) :
    startCommand (.getled x p) s = { s with seq := .sExec1 } := State.checkLed_of_isLed _ s h

theorem startCommand_btnstate {p : BitVec 4} (x : Bool) (s : State) (h : isSw p = true) :
    startCommand (.btnstate x p) s = { s with seq := .sExec1 } := by
  simp [startCommand, h]

/-- Settles O7: INIT by its equation; every other command starts alike whatever its ignored field holds. -/
theorem ignoredFieldsShowInCmdrOnly : Obligations.IgnoredFieldsShowInCmdrOnly := by
  intro s
  refine ⟨fun x y hq => ⟨_, exec_init_reset x hq, exec_init_reset y hq⟩, fun hq => ⟨?setleds, ?getled, ?pollbtn,
    ?clrint, ?btnstate, ?monstart, ?monstop⟩⟩
  case getled =>
    intro x y p hp
    exact exec_startedAlike (j := .getled y p) hq rfl rfl nofun nofun
      ((startCommand_getled x s hp).trans (startCommand_getled y s hp).symm)
  case btnstate =>
    intro x y p hp
    exact exec_startedAlike (j := .btnstate y p) hq rfl rfl nofun nofun
      ((startCommand_btnstate x s hp).trans (startCommand_btnstate y s hp).symm)
  case setleds =>
    intro on x y
    exact exec_startedAlike (j := .setleds on y) hq rfl rfl nofun nofun rfl
  case pollbtn =>
    intro x y
    exact exec_startedAlike (j := .pollbtn y) hq rfl rfl nofun nofun rfl
  case clrint =>
    intro x y
    exact exec_startedAlike (j := .clrint y) hq rfl rfl nofun nofun rfl
  case monstart =>
    intro x y
    exact exec_startedAlike (j := .monstart y) hq rfl rfl nofun nofun rfl
  case monstop =>
    intro x y
    exact exec_startedAlike (j := .monstop y) hq rfl rfl nofun nofun rfl

/-! ### Placed words (R82, R127) -/

theorem decodeTableWord_command (w : Byte) : decodeTableWord 8 w.toNat = some (decodeCommand w) := by
  simp [decodeTableWord, decode, Except.toOption]

theorem withFetchWord_command (w : Byte) (s : State) : s.withFetchWord 8 w.toNat = s.placeCommand w := by
  simp [State.withFetchWord, decodeTableWord_command]

theorem step_placeCommand (w : Byte) (s : State) :
    step (s.placeCommand w) = exec (decodeCommand w) { s with seq := acceptingSeq w } :=
  step_cons (s := s.placeCommand w) rfl

/-- A table word of 24 bits is a read or a write request. -/
theorem decodeTableWord_request {n : Nat} {i : Instr} (h : decodeTableWord 24 n = some i) :
    (∃ dev reg x, i = .busRd dev reg x) ∨ (∃ dev reg v, i = .busWr dev reg v) := by
  obtain rfl : decodeRequest (BitVec.ofNat 8 (n / 2 ^ 16)) (BitVec.ofNat 8 (n / 2 ^ 8)) (BitVec.ofNat 8 n) = i :=
    Option.some.inj h
  unfold decodeRequest
  cases (BitVec.ofNat 8 (n / 2 ^ 16)).getLsbD 7
  · exact .inr ⟨_, _, _, rfl⟩
  · exact .inl ⟨_, _, _, rfl⟩

theorem withFetchWord_request {n : Nat} {i : Instr} (s : State) (h : decodeTableWord 24 n = some i)
    (hwf : i.WellFormed) : s.withFetchWord 24 n = s.placeRequest i := by
  have issued : s.withFetchWord 24 n = s.placeIssued i := by simp [State.withFetchWord, h]
  exact issued.trans (if_pos hwf)

theorem exists_reg_of_wfRead {reg x : Byte} (h : Instr.wfRead reg x = true) :
    ∃ r : Reg, r.readable = true ∧ reg = r.addr ∧ x = 0x00#8 := by
  simp only [Instr.wfRead, Bool.and_eq_true, Bool.or_eq_true, beq_iff_eq] at h
  obtain ⟨hintf | hgpio, hx⟩ := h
  · exact ⟨.intf, rfl, hintf, hx⟩
  · exact ⟨.gpio, rfl, hgpio, hx⟩

theorem exists_reg_of_wfWrite {reg v : Byte} (h : Instr.wfWrite reg v = true) :
    ∃ r : Reg, r.writable = true ∧ reg = r.addr ∧ (r = .olat ∨ v = Config.cfgBtn) := by
  simp only [Instr.wfWrite, Bool.and_eq_true, Bool.or_eq_true, beq_iff_eq] at h
  rcases h with e | ⟨(((e | e) | e) | e) | e, hv⟩
  exacts [⟨.olat, rfl, e, .inl rfl⟩, ⟨.gppu, rfl, e, .inr hv⟩, ⟨.iodir, rfl, e, .inr hv⟩,
    ⟨.gpinten, rfl, e, .inr hv⟩, ⟨.defval, rfl, e, .inr hv⟩, ⟨.intcon, rfl, e, .inr hv⟩]

/-- Writing to a position the level it has changes nothing (R140). -/
theorem putBit_getBit (b : Byte) {pos : Nat} (hp : pos < 8) : putBit b pos (getBit b pos) = b := by
  apply BitVec.eq_of_getLsbD_eq
  intro q hq
  refine (getBit_putBit b pos q _ hp hq).trans ?_
  split
  case isTrue h => rw [h, getBit]
  case isFalse => rfl

/-- The next step of `p` is the sequencer's, enabled, with the request `i`; then come the moves of `s`. -/
def IssuesNext (i : Instr) (s p : State) : Prop :=
  p.inputs = .seq .reference :: s.inputs ∧ seqRequest p = some i ∧ seqMayCall p = true

theorem step_of_issuesNext {i : Instr} {s p : State} (h : IssuesNext i s p) :
    step p =
      Result.andThen (exec i { p with inputs := s.inputs, turn := .sequencer, ans := .reference }) seqFinish := by
  obtain ⟨hinputs, hrequest, hcall⟩ := h
  exact step_seq_call hinputs hrequest hcall

theorem seqRequest_pollbtn {s : State} {x : BitVec 5} (hq : s.seq = .sExec1) (hi : decodeCommand s.cmdr = .pollbtn x) :
    seqRequest s = some (readRequest .intf s) := by
  simp [seqRequest, exec1Request, hq, hi]

theorem seqRequest_clrint {s : State} {x : BitVec 5} (hq : s.seq = .sExec1) (hi : decodeCommand s.cmdr = .clrint x) :
    seqRequest s = some (readRequest .gpio s) := by
  simp [seqRequest, exec1Request, hq, hi]

theorem placeRequest_intf (dev : DevAddr) (x : Byte) (s : State) :
    s.placeRequest (.busRd dev Reg.intf.addr x) =
      { s.grantCall dev with seq := .sExec1, cmdr := wordOpX 0b100#3 0#5 } := rfl

theorem placeRequest_gpio (dev : DevAddr) (x : Byte) (s : State) :
    s.placeRequest (.busRd dev Reg.gpio.addr x) =
      { s.grantCall dev with seq := .sExec1, cmdr := wordOpX 0b101#3 0#5 } := rfl

theorem placeRequest_olat (dev : DevAddr) (v : Byte) (s : State) :
    s.placeRequest (.busWr dev Reg.olat.addr v) =
      { s.grantCall dev with seq := .sExec2, lock := .host, cmdr := setledWriting v, tmp := v } := rfl

/-- A read of GPIO is placed as the transaction of CLRINT, a read of INTF as that of POLLBTN. -/
theorem issuesNext_read {r : Reg} (dev : DevAddr) (s : State) (hr : r.readable = true) :
    IssuesNext (.busRd dev r.addr 0x00#8) s (s.placeRequest (.busRd dev r.addr 0x00#8)) := by
  cases r with
  | intf =>
    have hcmd : decodeCommand (wordOpX 0b100#3 0#5) = .pollbtn 0#5 := by decide
    rw [placeRequest_intf]
    exact ⟨rfl, seqRequest_pollbtn rfl hcmd, rfl⟩
  | gpio =>
    have hcmd : decodeCommand (wordOpX 0b101#3 0#5) = .clrint 0#5 := by decide
    rw [placeRequest_gpio]
    exact ⟨rfl, seqRequest_clrint rfl hcmd, rfl⟩
  | iodir | gpinten | defval | intcon | gppu | olat => cases hr

theorem decodeCommand_setledWriting (v : Byte) : decodeCommand (setledWriting v) = .setled (!v.getLsbD 0) 0#4 := by
  simp [setledWriting, decodeCommand]

/-- SETLED writes `v` back when TMP is `v` and the level of LED1 is that of bit 0 of `v`. -/
theorem seqRequest_setledWriting {s : State} {v : Byte} (hq : s.seq = .sExec2) (hcmdr : s.cmdr = setledWriting v)
    (htmp : s.tmp = v) : seqRequest s = some (writeRequest .olat v s) := by
  have hbyte : setBit v (0#4).toNat (!v.getLsbD 0) = v := putBit_getBit v (by decide)
  have hcmd : decodeCommand s.cmdr = .setled (!v.getLsbD 0) 0#4 := by rw [hcmdr, decodeCommand_setledWriting]
  rw [seqRequest_exec2 hq hcmd, htmp, hbyte]

/-- A write of OLAT is placed as the second transaction of SETLED, whose TMP is the byte to write already. -/
theorem issuesNext_olat (dev : DevAddr) (v : Byte) (s : State) :
    IssuesNext (.busWr dev Reg.olat.addr v) s (s.placeRequest (.busWr dev Reg.olat.addr v)) := by
  rw [placeRequest_olat]
  exact ⟨rfl, seqRequest_setledWriting rfl rfl rfl, rfl⟩

/-- A configuration write is placed as its step of INIT (R154 to R159). -/
theorem issuesNext_config {r : Reg} (dev : DevAddr) (s : State) (hr : r.writable = true) (ho : r ≠ .olat) :
    IssuesNext (.busWr dev r.addr Config.cfgBtn) s (s.placeRequest (.busWr dev r.addr Config.cfgBtn)) := by
  cases r with
  | gppu | iodir | gpinten | defval | intcon => exact ⟨rfl, rfl, rfl⟩
  | olat => exact absurd rfl ho
  | intf | gpio => cases hr

theorem issuesNext_write {r : Reg} {v : Byte} (dev : DevAddr) (s : State) (hr : r.writable = true)
    (hv : r = .olat ∨ v = Config.cfgBtn) :
    IssuesNext (.busWr dev r.addr v) s (s.placeRequest (.busWr dev r.addr v)) := by
  by_cases ho : r = .olat
  · subst ho
    exact issuesNext_olat dev v s
  · obtain rfl := hv.resolve_left ho
    exact issuesNext_config dev s hr ho

theorem withFetchWord_issuesNext {n : Nat} {i : Instr} (s : State) (h : decodeTableWord 24 n = some i)
    (hwf : i.WellFormed) : IssuesNext i s (s.withFetchWord 24 n) := by
  rw [withFetchWord_request s h hwf]
  rcases decodeTableWord_request h with ⟨dev, reg, x, rfl⟩ | ⟨dev, reg, v, rfl⟩
  · obtain ⟨r, hr, rfl, rfl⟩ := exists_reg_of_wfRead hwf
    exact issuesNext_read dev s hr
  · obtain ⟨r, hr, rfl, hv⟩ := exists_reg_of_wfWrite hwf
    exact issuesNext_write dev s hr hv

/-- Settles O42: a command word is the next offer, a request word the sequencer's next request. -/
theorem placedWordsRunNext : Obligations.PlacedWordsRunNext := by
  refine ⟨fun s w => ?_, fun s w i h hwf => ?_⟩
  · rw [withFetchWord_command, step_placeCommand]
  · obtain ⟨hinputs, hrequest, hcall⟩ := withFetchWord_issuesNext s h hwf
    exact ⟨hinputs, hrequest, step_of_issuesNext ⟨hinputs, hrequest, hcall⟩⟩

/-! ### Pin operands (R115, R116) -/

theorem isLed_iff (p : BitVec 4) : isLed p = true ↔ p.toNat ≤ 5 := decide_eq_true_iff

theorem isSw_iff (p : BitVec 4) : isSw p = true ↔ p.toNat = 6 ∨ p.toNat = 7 := by simp [isSw]

theorem getLsbD_pinMask {p : BitVec 4} {i : Nat} (hi : i < 8) : (pinMask p).getLsbD i = true ↔ i = p.toNat := by
  simp only [pinMask, BitVec.getLsbD_shiftLeft, BitVec.getLsbD_one, Nat.ofNat_pos, decide_true, Bool.true_and,
    Bool.and_eq_true, decide_eq_true_eq, Bool.not_eq_eq_eq_not, Bool.not_true, decide_eq_false_iff_not, not_lt]
  omega

/-- Settles O11: the classes and the bits of every mask by their lemmas, the masks of the spec by evaluation. -/
theorem pinClassesAndMasks : Obligations.PinClassesAndMasks :=
  ⟨fun p => ⟨isLed_iff p, isSw_iff p⟩, by decide, fun _ _ _ => getLsbD_pinMask, rfl, rfl⟩

/-! ### Pseudo-operations (R125) -/

theorem assemble_ledOn (p : AsmArg) : assemble .LEDON [p] = assemble .SETLED [p, .on] := Option.map_eq_bind

theorem assemble_ledOff (p : AsmArg) : assemble .LEDOFF [p] = assemble .SETLED [p, .off] := Option.map_eq_bind

/-- Settles O6: LEDON and LEDOFF for any operand by their lemmas, the lines without a free operand by evaluation. -/
theorem pseudoOperationsExpand : Obligations.PseudoOperationsExpand := by
  refine ⟨fun p => ⟨assemble_ledOn p, assemble_ledOff p⟩, ?_⟩
  decide

/-! ### Words of the spec (R119, R124) -/

/-- Settles O1: each word of the spec, decoded by evaluation. -/
theorem tableWordsDecode : Obligations.TableWordsDecode := by
  unfold Obligations.TableWordsDecode
  decide

theorem countP_range_mul (p : Nat → Bool) (m k : Nat) :
    (List.range (m * k)).countP p =
      ((List.range m).map fun i => (List.range k).countP fun n => p (i * k + n)).sum := by
  induction m with
  | zero => simp
  | succ m ih =>
    rw [Nat.succ_mul, List.range_add, List.countP_append, ih, List.countP_map, List.range_succ, List.map_append,
      List.sum_append]
    simp [Function.comp_def]

/-- The 256 command words are 32 words of each opcode. -/
theorem countP_words (f : Instr → Bool) :
    ((List.range 256).map fun n => decodeCommand (BitVec.ofNat 8 n)).countP f =
      ((List.range 8).map fun op =>
        (List.range 32).countP fun n => f (decodeCommand (BitVec.ofNat 8 (op * 32 + n)))).sum :=
  List.countP_map.trans (countP_range_mul _ 8 32)

/-- Settles O5: per count, opcode by opcode. -/
theorem commandWordCounts : Obligations.CommandWordCounts := by
  unfold Obligations.CommandWordCounts
  simp only [countP_words]
  and_intros <;> decide

end Sys2Proof.Machine

/-! ## The bit functions (40_bitops.md) -/

namespace Sys2Proof.Machine

/-! ### setBit (R140) -/

/-- `setBit` puts the bit to the inverted level. -/
theorem setBit_eq_putBit (b : Byte) (pos : Nat) (on : Bool) : setBit b pos on = putBit b pos (!on) := by
  rw [putBit, Bool.not_not]

theorem getBit_setBit (b : Byte) {pos q : Nat} (on : Bool) (hp : pos < 8) (hq : q < 8) :
    getBit (setBit b pos on) q = if q = pos then !on else getBit b q := by
  rw [setBit_eq_putBit, getBit_putBit b pos q _ hp hq]

theorem getBit_setBit_same (b : Byte) {pos : Nat} (on : Bool) (hp : pos < 8) :
    getBit (setBit b pos on) pos = !on :=
  (getBit_setBit b on hp hp).trans (if_pos rfl)

theorem getBit_setBit_other (b : Byte) {pos q : Nat} (on : Bool) (hp : pos < 8) (hq : q < 8) (hne : q ≠ pos) :
    getBit (setBit b pos on) q = getBit b q :=
  (getBit_setBit b on hp hq).trans (if_neg hne)

theorem setBit_eq_self {b : Byte} {pos : Nat} {on : Bool} (hp : pos < 8) (h : getBit b pos = !on) :
    setBit b pos on = b := by
  rw [setBit_eq_putBit, ← h, putBit_getBit b hp]

theorem setBit_idem (b : Byte) {pos : Nat} (on : Bool) (hp : pos < 8) :
    setBit (setBit b pos on) pos on = setBit b pos on :=
  setBit_eq_self hp (getBit_setBit_same b on hp)

theorem setBit_comm (b : Byte) {pos q : Nat} (on on' : Bool) (hp : pos < 8) (hq : q < 8) (hne : q ≠ pos) :
    setBit (setBit b pos on) q on' = setBit (setBit b q on') pos on := by
  refine BitVec.eq_of_getLsbD_eq fun i hi => ?_
  change getBit _ i = getBit _ i
  simp only [getBit_setBit _ _ hp hi, getBit_setBit _ _ hq hi]
  by_cases hiq : i = q
  · have hip : i ≠ pos := hiq ▸ hne
    rw [if_pos hiq, if_neg hip, if_pos hiq]
  · rw [if_neg hiq, if_neg hiq]

/-- Settles O8: the level of every bit after a `setBit`, and from it that equal writes are absorbed and that writes to
two positions commute. -/
theorem setBitIsActiveLow : Obligations.SetBitIsActiveLow := fun b _ on hp =>
  ⟨getBit_setBit_same b on hp, fun _ hq hne => getBit_setBit_other b on hp hq hne, setBit_eq_self hp,
    setBit_idem b on hp, fun _ on' hq hne => setBit_comm b on on' hp hq hne⟩

/-! ### ledState (R144) -/

theorem ledState_setBit_same (b : Byte) {pos : Nat} (on : Bool) (hp : pos < 8) :
    ledState (setBit b pos on) pos = on := by
  rw [ledState, getBit_setBit_same b on hp, Bool.not_not]

theorem ledState_setBit_other (b : Byte) {pos q : Nat} (on : Bool) (hp : pos < 8) (hq : q < 8) (hne : q ≠ pos) :
    ledState (setBit b pos on) q = ledState b q :=
  congrArg (!·) (getBit_setBit_other b on hp hq hne)

/-- Settles O9: `ledState` undoes the inversion of `setBit`; the two examples of R144 by evaluation. -/
theorem ledStateInvertsSetBit : Obligations.LedStateInvertsSetBit := fun b _ on hp =>
  ⟨rfl, ledState_setBit_same b on hp, fun _ hq hne => ledState_setBit_other b on hp hq hne, rfl, rfl⟩

/-! ### decodeButton (R145) -/

theorem decodeButton_eq_sw1 {f : Byte} (h6 : getBit f 6 = true) : decodeButton f = .sw1 := by
  rw [decodeButton, h6, cond_true]

theorem decodeButton_eq_sw2 {f : Byte} (h6 : getBit f 6 = false) (h7 : getBit f 7 = true) :
    decodeButton f = .sw2 := by
  rw [decodeButton, h6, h7, cond_false, cond_true]

theorem decodeButton_eq_none {f : Byte} (h6 : getBit f 6 = false) (h7 : getBit f 7 = false) :
    decodeButton f = .none := by
  rw [decodeButton, h6, h7, cond_false, cond_false]

/-- Only bits 6 and 7 are looked at. -/
theorem decodeButton_congr {f g : Byte} (h6 : getBit f 6 = getBit g 6) (h7 : getBit f 7 = getBit g 7) :
    decodeButton f = decodeButton g := by
  rw [decodeButton, h6, h7, decodeButton]

/-- Settles O10: one lemma per outcome, and the mask 0xC0 keeps the two bits that are looked at. -/
theorem buttonDecodePrefersSw1 : Obligations.ButtonDecodePrefersSw1 := fun f =>
  ⟨fun h6 => congrArg Event.code (decodeButton_eq_sw1 h6),
    fun h6 h7 => congrArg Event.code (decodeButton_eq_sw2 h6 h7),
    fun h6 h7 => congrArg Event.code (decodeButton_eq_none h6 h7),
    decodeButton_congr (by simp [getBit]) (by simp [getBit])⟩

end Sys2Proof.Machine

/-! ## INIT (41_init.md) -/

namespace Sys2Proof.Machine

/-! ### Acceptance (R151) -/

/-- Settles O20: what `exec` does with an INIT in S_RESET. -/
theorem initIsAccepted : Obligations.InitIsAccepted := fun x _ hq => exec_init_reset x hq

/-! ### The transaction steps (R152 to R161, R163) -/

/-- The end of a transaction of INIT: SEQ goes on in strict order, HT is loaded for a hold. -/
theorem seqFinish_initAdvance {s : State} {n : Seq} (adv : InitAdvance s.seq n) (hno : holdsIn s.seq = false) :
    seqFinish s = { s with seq := n, ht := if holdsIn n then Config.flashHoldMs else s.ht } := by
  have next : ∃ m, InitAdvance s.seq m ∧
      seqFinish s = { s with seq := m, ht := if holdsIn m then Config.flashHoldMs else s.ht } := by
    obtain ⟨hcode, hstart, hin⟩ := adv
    unfold seqFinish
    cases hq : s.seq <;> rw [hq] at hcode hstart hno
    case sReset => exact absurd hstart (by decide)
    case sHoldOn | sHoldOff => cases hno
    case sReady | sExec1 | sExec2 | sHalt =>
      rw [hcode] at hin
      exact absurd hin (by decide)
    all_goals exact ⟨_, ⟨rfl, by decide, by decide⟩, rfl⟩
  obtain ⟨m, hm, e⟩ := next
  obtain rfl : m = n := Seq.code_injective (hm.code.trans adv.code.symm)
  exact e

theorem seqMayCall_of_free {s : State} (hv : s.handleV = true) (hl : s.lock = .free) (hq : s.seq ≠ .sExec2) :
    seqMayCall s = true := by
  unfold seqMayCall
  split
  case h_1 => rfl
  case h_2 heq => exact absurd heq hq
  all_goals simp [hv, hl]

theorem InitAdvance.ne_exec2 {p q : Seq} (h : InitAdvance p q) : p ≠ .sExec2 := by
  obtain ⟨_, _, hne⟩ := h.source
  exact hne

theorem not_holds_of_seqRequest {s : State} {i : Instr} (hi : seqRequest s = some i) : holdsIn s.seq = false := by
  cases h : holdsIn s.seq
  case false => rfl
  case true =>
    rw [seqRequest_of_holds h] at hi
    cases hi

/-- The reading steps of INIT: the state of SEQ that follows (R153, R160). -/
def initRead : Seq → Option Seq
  | .sProbe => some .sPullup
  | .sIntclr => some .sFlashOn
  | _ => none

/-- The writing steps of INIT: the register, the byte and the state of SEQ that follows (R154 to R159, R161, R163). -/
def initWrite : Seq → Option (Reg × Byte × Seq)
  | .sPullup => some (.gppu, Config.cfgBtn, .sDir)
  | .sDir => some (.iodir, Config.cfgBtn, .sLedsOff)
  | .sLedsOff => some (.olat, Config.allOff, .sInten)
  | .sInten => some (.gpinten, Config.cfgBtn, .sDefval)
  | .sDefval => some (.defval, Config.cfgBtn, .sIntcon)
  | .sIntcon => some (.intcon, Config.cfgBtn, .sIntclr)
  | .sFlashOn => some (.olat, Config.allOn, .sHoldOn)
  | .sFlashOff => some (.olat, Config.allOff, .sHoldOff)
  | _ => none

theorem initAdvance_of_initRead {p n : Seq} (h : initRead p = some n) :
    InitAdvance p n ∧ handleOpenIn p = true ∧ holdsIn n = false := by
  cases p <;> cases h <;> exact ⟨⟨rfl, by decide, by decide⟩, rfl, rfl⟩

theorem initAdvance_of_initWrite {p n : Seq} {r : Reg} {v : Byte} (h : initWrite p = some (r, v, n)) :
    InitAdvance p n ∧ handleOpenIn p = true ∧ r.writable = true := by
  cases p <;> cases h <;> exact ⟨⟨rfl, by decide, by decide⟩, rfl, rfl⟩

/-- The rows of `initRead` are read requests of the sequencer. -/
theorem seqRequest_of_initRead {s : State} {n : Seq} (h : initRead s.seq = some n) :
    seqRequest s = some (readRequest .gpio s) := by
  unfold seqRequest
  cases hq : s.seq
  case sProbe | sIntclr => rfl
  all_goals
    rw [hq] at h
    cases h

/-- The rows of `initWrite` are write requests of the sequencer. -/
theorem seqRequest_of_initWrite {s : State} {n : Seq} {r : Reg} {v : Byte} (h : initWrite s.seq = some (r, v, n)) :
    seqRequest s = some (writeRequest r v s) := by
  unfold seqRequest
  cases hq : s.seq <;> rw [hq] at h <;> cases h <;> rfl

/-- R152: the open call of INIT, answered ok. -/
theorem runMove_initOpen {s : State} {a : Answer} (hq : s.seq = .sOpen) (ha : NoTransportError a) :
    runMove (.seq a) s = .next { s with
      trace := s.trace ++ [.openBus s.cfgBus true], handleV := true, handleBus := s.cfgBus, turn := .sequencer,
      ans := a, seq := .sProbe } := by
  have hi : seqRequest s = some (.busOpen s.cfgBus) := by simp [seqRequest, hq]
  have hm : seqMayCall s = true := by simp [seqMayCall, hq]
  rw [runMove, seqStep_call a hi hm, agentCall_open_ok _ _ _ hq ha]
  exact congrArg Host.Outcome.next (seqFinish_open hq)

theorem State.readOk_gpio (g : Byte) (s : State) :
    s.readOk .gpio g =
      { s with trace := s.trace ++ [.rd 0x09#8 (some g)], mem := Memory.write s.mem 0x07 0x00#8, rdata := g } := rfl

/-- R153, R160: a GPIO read of INIT, answered with a byte; it clears INTF. -/
theorem runMove_initRead {s : State} {a : Answer} {g : Byte} {p n : Seq} (hq : s.seq = p)
    (hr : initRead p = some n) (hv : s.handleV = true) (hl : s.lock = .free) (ha : answeredByte a .gpio s = some g) :
    runMove (.seq a) s = .next { s with
      trace := s.trace ++ [.rd 0x09#8 (some g)], mem := Memory.write s.mem 0x07 0x00#8, rdata := g,
      turn := .sequencer, ans := a, seq := n } := by
  subst hq
  obtain ⟨adv, _, hn⟩ := initAdvance_of_initRead hr
  have hi := seqRequest_of_initRead hr
  rw [runMove_seq_read hi (seqMayCall_of_free hv hl adv.ne_exec2) hv rfl ha, State.readOk_gpio,
    seqFinish_initAdvance (n := n), hn]
  · rfl
  · exact adv
  · exact not_holds_of_seqRequest hi

/-- R154 to R159, R161, R163: a write of INIT, answered ok. -/
theorem runMove_initWrite {s : State} {a : Answer} {r : Reg} {v : Byte} {p n : Seq} (hq : s.seq = p)
    (hw : initWrite p = some (r, v, n)) (hv : s.handleV = true) (hl : s.lock = .free) (ha : NoTransportError a) :
    runMove (.seq a) s = .next { s with
      trace := s.trace ++ [.wr r.addr v true], mem := Memory.write s.mem r.addr.toNat v, turn := .sequencer,
      ans := a, seq := n, ht := if holdsIn n then Config.flashHoldMs else s.ht } := by
  subst hq
  obtain ⟨adv, _, hr⟩ := initAdvance_of_initWrite hw
  have hi := seqRequest_of_initWrite hw
  rw [runMove_seq_write hi (seqMayCall_of_free hv hl adv.ne_exec2) hv hr ha]
  exact congrArg Host.Outcome.next (seqFinish_initAdvance adv (not_holds_of_seqRequest hi))

/-- Settles O30: the open call, and the rows of `initRead` and `initWrite`. -/
theorem initStepsInStrictOrder : Obligations.InitStepsInStrictOrder := by
  intro a s ha opened wrote didRead
  refine ⟨fun hq => runMove_initOpen hq ha, fun hv hl => ?_⟩
  obtain ⟨g, hg⟩ := answeredByte_some ha .gpio s
  have read {p n : Seq} (hr : initRead p = some n) (hq : s.seq = p) := runMove_initRead hq hr hv hl hg
  have write (r : Reg) (n : Seq) {p : Seq} {v : Byte} (hw : initWrite p = some (r, v, n)) (hq : s.seq = p) :=
    runMove_initWrite hq hw hv hl ha
  exact ⟨fun hq => ⟨g, hg, read rfl hq⟩, write .gppu .sDir rfl, write .iodir .sLedsOff rfl, write .olat .sInten rfl,
    write .gpinten .sDefval rfl, write .defval .sIntcon rfl, write .intcon .sIntclr rfl,
    fun hq => ⟨g, hg, read rfl hq⟩, write .olat .sHoldOn rfl, write .olat .sHoldOff rfl⟩

/-! ### The holds of the self-test flash (R162, R164) -/

theorem runMove_hold_waits {s : State} (a : Answer) (hq : s.seq = .sHoldOn ∨ s.seq = .sHoldOff) (hz : s.ht ≠ 0#16) :
    runMove (.seq a) s = .next s := by
  rcases hq with hq | hq <;> simp [runMove, seqStep, hq, hz]

theorem runMove_holdOn_ends {s : State} (a : Answer) (hq : s.seq = .sHoldOn) (hz : s.ht = 0#16) :
    runMove (.seq a) s = .next { s with seq := .sFlashOff } := by
  simp [runMove, seqStep, hq, hz]

theorem runMove_holdOff_ends {s : State} (a : Answer) (hq : s.seq = .sHoldOff) (hz : s.ht = 0#16) :
    runMove (.seq a) s = .next (s.respond 0x00#8) := by
  simp [runMove, seqStep, hq, hz]

/-- Settles O31: `n` ticks take `n` off HT, and the exit is enabled when nothing is left. -/
theorem flashHoldsLastTheirTicks : Obligations.FlashHoldsLastTheirTicks := by
  intro n a s hq _
  have hlive : s.seq ≠ .sHalt := by rcases hq with hq | hq <;> rw [hq] <;> decide
  obtain ⟨d, t, hrun, _, ht⟩ := runMoves_ticks n hlive
  have zero_of_eq (hn : n = s.ht.toNat) : t = 0#16 := BitVec.eq_of_toNat_eq (by rw [ht, hn]; simp)
  have pos_of_lt (hn : n < s.ht.toNat) : t ≠ 0#16 := by
    rintro rfl
    have : s.ht.toNat - n = 0 := ht.symm
    omega
  exact ⟨{ s with dbt := d, ht := t }, hrun, rfl, ht, rfl,
    fun hn => runMove_hold_waits a hq (pos_of_lt hn),
    fun hn hon => runMove_holdOn_ends a hon (zero_of_eq hn),
    fun hn hoff => runMove_holdOff_ends a hoff (zero_of_eq hn)⟩

end Sys2Proof.Machine

namespace Sys2Proof

open Machine

/-! ### The whole of INIT (R168) -/

theorem kept_runMoves {ms : List Move} {s t : State} (h : Legal s) (hm : runMoves ms s = .next t) : Kept s t := by
  induction ms generalizing s with
  | nil => cases hm; exact Kept.refl h
  | cons m ms ih =>
    obtain ⟨u, hu, hrest⟩ := runMoves_of_cons hm
    exact (kept_runMove h hu).trans fun hl => ih hl hrest

/-- R295: what a ready state has after an INIT. -/
theorem contract_of_ready {s : State} (h : Legal s) (hs : SetUp s) (hq : s.seq = .sReady) :
    s.handleV = true ∧ s.handleBus = Config.busNum ∧ s.cfgBus = Config.busNum ∧ s.cfgDev = Config.devAddr ∧
      Configured s := by
  obtain ⟨haddr, hbus, hreg⟩ := (setUp_iff s).mp hs
  have hv : s.handleV = true := h.handle_of_open (by rw [hq]; rfl)
  obtain ⟨hcfgBus, hcfgDev⟩ := haddr (by rw [hq]; decide)
  have hcfg (r : Reg) {q : Seq} (hr : configuredAt r = some q) : s.reg r = Config.cfgBtn :=
    hreg r q hr (past_of_configured hr (by rw [hq]; decide) (by rw [hq]; decide))
  exact ⟨hv, hbus hv, hcfgBus, hcfgDev,
    ⟨hcfg .iodir rfl, hcfg .gppu rfl, hcfg .gpinten rfl, hcfg .defval rfl, hcfg .intcon rfl⟩⟩

theorem legal_of_cleanReset {s : State} (h : CleanReset s) (hm : MemInv s) : Legal s := by
  have hq : s.seq = .sReset := congrArg State.seq h
  obtain ⟨herr, hhandle, hmon, hlock, hnot, hevt, hdbt, hht⟩ := ldcInv_reset
  refine ⟨?_, hm, cmdInv_of_not_busy (by rw [hq]; decide) (by rw [hq]; decide)⟩
  rw [h]
  exact ⟨herr, hhandle, hmon, hlock, hnot, hevt, hdbt, hht⟩

/-- A state ready after an INIT is legal and INIT has established everything in it: both are invariants of runs. -/
theorem setUp_of_inited {s : State} (h : Inited s) : Legal s ∧ SetUp s ∧ s.seq = .sReady := by
  obtain ⟨r, ms, hclean, hmem, _, hrun, hq, _⟩ := h
  obtain ⟨hl, hsetUp⟩ := kept_runMoves (legal_of_cleanReset hclean hmem) hrun
  exact ⟨hl, hsetUp (setUp_of_reset (congrArg State.seq hclean) (congrArg State.handleV hclean)), hq⟩

/-- The moves `ms`, a part of INIT before its response, lead from `s` to `t` and make the calls `cs`. -/
structure InitPart (ms : List Move) (cs : List Call) (s t : State) : Prop where
  run : runMoves ms s = .next t
  trace : t.trace = s.trace ++ cs
  responses : t.responses = s.responses
  events : t.events = s.events
  mon : t.mon = s.mon

theorem InitPart.trans {ms ns : List Move} {cs ds : List Call} {s t u : State} (h : InitPart ms cs s t)
    (k : InitPart ns ds t u) : InitPart (ms ++ ns) (cs ++ ds) s u where
  run := (runMoves_append ns h.run).trans k.run
  trace := by rw [k.trace, h.trace, List.append_assoc]
  responses := k.responses.trans h.responses
  events := k.events.trans h.events
  mon := k.mon.trans h.mon

theorem InitPart.legal {ms : List Move} {cs : List Call} {s t : State} (h : InitPart ms cs s t) (hs : Legal s) :
    Legal t := (kept_runMoves hs h.run).1

/-- A GPIO read of INIT from a legal state. -/
theorem initPart_read {s : State} {a : Answer} {p n : Seq} (h : Legal s) (hq : s.seq = p) (hr : initRead p = some n)
    (ha : NoTransportError a) :
    ∃ g t, InitPart [.seq a] [.rd 0x09#8 (some g)] s t ∧ t.seq = n ∧ t.reg .intf = 0x00#8 := by
  subst hq
  obtain ⟨adv, hopen, _⟩ := initAdvance_of_initRead hr
  obtain ⟨g, hg⟩ := answeredByte_some ha .gpio s
  have e := runMove_initRead rfl hr (h.handle_of_open hopen) (h.lock_free adv.ne_exec2) hg
  exact ⟨g, _, ⟨runMoves_cons [] e, rfl, rfl, rfl, rfl⟩, rfl, State.reg_setReg_same s .intf 0x00#8 h.mem.wf⟩

/-- A write of INIT from a legal state: its register, and no other, has changed. -/
theorem initPart_write {s : State} {a : Answer} {p n : Seq} {r : Reg} {v : Byte} (h : Legal s) (hq : s.seq = p)
    (hw : initWrite p = some (r, v, n)) (ha : NoTransportError a) :
    ∃ t, InitPart [.seq a] [.wr r.addr v true] s t ∧ t.seq = n ∧
      (holdsIn n = true → t.ht = Config.flashHoldMs) ∧ t.reg r = v ∧ ∀ q, q ≠ r → t.reg q = s.reg q := by
  subst hq
  obtain ⟨adv, hopen, _⟩ := initAdvance_of_initWrite hw
  have e := runMove_initWrite rfl hw (h.handle_of_open hopen) (h.lock_free adv.ne_exec2) ha
  exact ⟨_, ⟨runMoves_cons [] e, rfl, rfl, rfl, rfl⟩, rfl, fun hn => if_pos hn,
    State.reg_setReg_same s r v h.mem.wf, fun q hne => State.reg_setReg_other s r q v hne⟩

/-- The ticks of one hold of the self-test flash (R162, R164). -/
def flashHold : List Move := List.replicate Config.flashHoldMs.toNat .tick

/-- The ten granted steps of INIT before its first hold, with the answers to their calls (R152 to R161). -/
def grantsUntilHold (a : Fin 11 → Answer) : List Move :=
  [.seq (a 0), .seq (a 1), .seq (a 2), .seq (a 3), .seq (a 4), .seq (a 5), .seq (a 6), .seq (a 7), .seq (a 8),
    .seq (a 9)]

/-- The calls of INIT in order, its two GPIO reads answered `g` and `g'` (R168). -/
def initTrace (bus g g' : Byte) : List Call :=
  [.openBus bus true, .rd 0x09#8 (some g), .wr 0x06#8 0xC0#8 true, .wr 0x00#8 0xC0#8 true, .wr 0x0A#8 0x3F#8 true,
    .wr 0x02#8 0xC0#8 true, .wr 0x03#8 0xC0#8 true, .wr 0x04#8 0xC0#8 true, .rd 0x09#8 (some g'),
    .wr 0x0A#8 0x00#8 true, .wr 0x0A#8 0x3F#8 true]

/-- The ticks of a hold: HT runs down, the expander is left alone. -/
theorem initPart_ticks {s : State} (hq : holdsIn s.seq = true) (hht : s.ht = Config.flashHoldMs) :
    ∃ t, InitPart flashHold [] s t ∧ t.seq = s.seq ∧ t.ht = 0#16 ∧ t.mem = s.mem := by
  have hlive : s.seq ≠ .sHalt := by
    intro e
    rw [e] at hq
    cases hq
  obtain ⟨d, c, hrun, _, hc⟩ := runMoves_ticks Config.flashHoldMs.toNat hlive
  have hzero : c = 0#16 := BitVec.eq_of_toNat_eq (by rw [hc, hht]; simp)
  exact ⟨_, ⟨hrun, (List.append_nil _).symm, rfl, rfl, rfl⟩, rfl, hzero, rfl⟩

section Phases

variable {a : Fin 11 → Answer} {s : State}

/-- R152, R153: the bus is opened and the device probed. -/
theorem initPart_probe (ha : ∀ k, NoTransportError (a k)) (h : Legal s) (hq : s.seq = .sOpen) :
    ∃ g t, InitPart [.seq (a 0), .seq (a 1)] [.openBus s.cfgBus true, .rd 0x09#8 (some g)] s t ∧
      t.seq = .sPullup := by
  have opened := runMove_initOpen hq (ha 0)
  have openPart := InitPart.mk (cs := [.openBus s.cfgBus true]) (runMoves_cons [] opened) rfl rfl rfl rfl
  obtain ⟨g, t, readPart, hseq, _⟩ := initPart_read (openPart.legal h) rfl rfl (ha 1)
  exact ⟨g, t, openPart.trans readPart, hseq⟩

/-- R154 to R159: the expander is configured. -/
theorem initPart_configure (ha : ∀ k, NoTransportError (a k)) (h : Legal s) (hq : s.seq = .sPullup) :
    ∃ t, InitPart [.seq (a 2), .seq (a 3), .seq (a 4), .seq (a 5), .seq (a 6), .seq (a 7)]
      [.wr 0x06#8 0xC0#8 true, .wr 0x00#8 0xC0#8 true, .wr 0x0A#8 0x3F#8 true, .wr 0x02#8 0xC0#8 true,
        .wr 0x03#8 0xC0#8 true, .wr 0x04#8 0xC0#8 true] s t ∧ t.seq = .sIntclr := by
  obtain ⟨t1, p1, q1, -⟩ := initPart_write h hq rfl (ha 2)
  obtain ⟨t2, p2, q2, -⟩ := initPart_write (p1.legal h) q1 rfl (ha 3)
  have p2 := p1.trans p2
  obtain ⟨t3, p3, q3, -⟩ := initPart_write (p2.legal h) q2 rfl (ha 4)
  have p3 := p2.trans p3
  obtain ⟨t4, p4, q4, -⟩ := initPart_write (p3.legal h) q3 rfl (ha 5)
  have p4 := p3.trans p4
  obtain ⟨t5, p5, q5, -⟩ := initPart_write (p4.legal h) q4 rfl (ha 6)
  have p5 := p4.trans p5
  obtain ⟨t6, p6, q6, -⟩ := initPart_write (p5.legal h) q5 rfl (ha 7)
  exact ⟨t6, p5.trans p6, q6⟩

/-- R160, R161: the flags are cleared and the LEDs switched on. -/
theorem initPart_flashOn (ha : ∀ k, NoTransportError (a k)) (h : Legal s) (hq : s.seq = .sIntclr) :
    ∃ g t, InitPart [.seq (a 8), .seq (a 9)] [.rd 0x09#8 (some g), .wr 0x0A#8 0x00#8 true] s t ∧
      t.seq = .sHoldOn ∧ t.ht = Config.flashHoldMs ∧ t.reg .intf = 0x00#8 := by
  obtain ⟨g, u, readPart, hu, hintf⟩ := initPart_read h hq rfl (ha 8)
  obtain ⟨t, writePart, hseq, hht, _, hother⟩ := initPart_write (readPart.legal h) hu rfl (ha 9)
  exact ⟨g, t, readPart.trans writePart, hseq, hht rfl, (hother .intf (by decide)).trans hintf⟩

/-- R162, R163: the hold, after which the LEDs are switched off. -/
theorem initPart_flashOff (ha : ∀ k, NoTransportError (a k)) (b : Answer) (h : Legal s) (hq : s.seq = .sHoldOn)
    (hht : s.ht = Config.flashHoldMs) :
    ∃ t, InitPart (flashHold ++ [.seq b, .seq (a 10)]) [.wr 0x0A#8 0x3F#8 true] s t ∧
      t.seq = .sHoldOff ∧ t.ht = Config.flashHoldMs ∧ t.reg .olat = 0x3F#8 ∧ t.reg .intf = s.reg .intf := by
  obtain ⟨u, hold, hu, hzero, hmem⟩ := initPart_ticks (by rw [hq]; rfl) hht
  have ended := runMove_holdOn_ends b (hu.trans hq) hzero
  have endPart := InitPart.mk (cs := []) (runMoves_cons [] ended) (List.append_nil _).symm rfl rfl rfl
  obtain ⟨t, writePart, hseq, hht, holat, hother⟩ := initPart_write (endPart.legal (hold.legal h)) rfl rfl (ha 10)
  have hintf : t.reg .intf = s.reg .intf := (hother .intf (by decide)).trans (State.reg_congr .intf hmem)
  exact ⟨t, hold.trans (endPart.trans writePart), hseq, hht rfl, holat, hintf⟩

/-- R152 to R163: INIT from its acceptance to its last hold. -/
theorem initPart_untilLastHold (ha : ∀ k, NoTransportError (a k)) (b : Answer) (h : Legal s) (hq : s.seq = .sOpen) :
    ∃ g g' t,
      InitPart (grantsUntilHold a ++ (flashHold ++ [.seq b, .seq (a 10)])) (initTrace s.cfgBus g g') s t ∧
      t.seq = .sHoldOff ∧ t.ht = Config.flashHoldMs ∧ t.reg .olat = 0x3F#8 ∧ t.reg .intf = 0x00#8 := by
  obtain ⟨g, t1, probe, q1⟩ := initPart_probe ha h hq
  obtain ⟨t2, configure, q2⟩ := initPart_configure ha (probe.legal h) q1
  have p2 := probe.trans configure
  obtain ⟨g', t3, flashOn, q3, hht3, hintf3⟩ := initPart_flashOn ha (p2.legal h) q2
  have p3 := p2.trans flashOn
  obtain ⟨t4, flashOff, q4, hht4, holat, hintf4⟩ := initPart_flashOff ha b (p3.legal h) q3 hht3
  exact ⟨g, g', t4, p3.trans flashOff, q4, hht4, holat, hintf4.trans hintf3⟩

/-- R164: the last hold, after which INIT responds. -/
theorem init_completes (ha : ∀ k, NoTransportError (a k)) (b c : Answer) (h : Legal s) (hq : s.seq = .sOpen) :
    ∃ g g' u,
      runMoves (grantsUntilHold a ++ flashHold ++ [.seq b, .seq (a 10)] ++ flashHold ++ [.seq c]) s = .next u ∧
      u.trace = s.trace ++ initTrace s.cfgBus g g' ∧ u.responses = s.responses ++ [0x00#8] ∧ u.rsp = 0x00#8 ∧
      u.seq = .sReady ∧ u.mon = s.mon ∧ u.events = s.events ∧ u.reg .olat = 0x3F#8 ∧ u.reg .intf = 0x00#8 := by
  obtain ⟨g, g', t, part, hseq, hht, holat, hintf⟩ := initPart_untilLastHold ha b h hq
  obtain ⟨v, hold, hv, hzero, hmem⟩ := initPart_ticks (by rw [hseq]; rfl) hht
  have whole := part.trans hold
  have ended := runMoves_cons [] (runMove_holdOff_ends c (hv.trans hseq) hzero)
  refine ⟨g, g', v.respond 0x00#8, ?_, whole.trace, congrArg (· ++ [0x00#8]) whole.responses, rfl, rfl, whole.mon,
    whole.events, ?_, ?_⟩
  · rw [List.append_assoc (grantsUntilHold a)]
    exact (runMoves_append _ whole.run).trans ended
  · exact (State.reg_congr .olat hmem).trans holat
  · exact (State.reg_congr .intf hmem).trans hintf

end Phases

theorem runMove_offer_initWord (x : BitVec 5) (s : State) :
    runMove (.offer (commandWord (.init x))) s = exec (.init x) s :=
  congrArg (exec · s) (decodeCommand_commandWord rfl)

/-- R50, R52: in S_RESET the handle is closed and the monitor off. -/
theorem Legal.off_in_reset {s : State} (h : Legal s) (hq : s.seq = .sReset) : s.handleV = false ∧ s.mon = .mOff := by
  constructor
  · by_contra hv
    exact (h.live_of_handle (by simpa using hv)).1 hq
  · by_contra hm
    have may := h.ldc.mon_off hm
    rw [hq] at may
    cases may

theorem Legal.err_none {s : State} (h : Legal s) (hq : s.seq ≠ .sHalt) : s.err = .none := by
  by_contra he
  exact hq (h.ldc.err_iff_halt.mp he)

/-- Settles O32: INIT runs to its response (`init_completes`), what it establishes is an invariant of every step
(`Kept`), and a ready state has all of it (`contract_of_ready`). -/
theorem initEstablishesItsContract : Obligations.InitEstablishesItsContract := by
  constructor
  case left =>
    intro x a b c s h hq ha hold moves
    have accepted := exec_init_reset x hq
    have offered := (runMove_offer_initWord x s).trans accepted
    have start := kept_offer h offered
    obtain ⟨g, g', u, run, htrace, hresp, hrsp, hready, hmon, hevents, holat, hintf⟩ :=
      init_completes ha b c start.1 rfl
    obtain ⟨closed, hoff⟩ := h.off_in_reset hq
    obtain ⟨hl, hsetUp⟩ := start.trans fun hl => kept_runMoves hl run
    obtain ⟨hv, hbus, hcfgBus, hcfgDev, hcfg⟩ := contract_of_ready hl (hsetUp (setUp_of_reset hq closed)) hready
    have herr : u.err = .none := hl.err_none (by rw [hready]; decide)
    have inited (hclean : CleanReset s) : Inited u :=
      ⟨s, .offer (commandWord (.init x)) :: moves, hclean, h.mem, by simp [moves, hold],
        (runMoves_cons _ offered).trans run, hready, herr⟩
    exact ⟨_, u, g, g', accepted, run, htrace, hresp, hrsp, hready, hmon.trans hoff,
      hl.lock_free (by rw [hready]; decide), hv, hbus, hcfgBus, hcfgDev, herr, hl.ldc.ht_zero (by rw [hready]; rfl),
      hevents, hcfg.iodir, hcfg.gppu, hcfg.gpinten, hcfg.defval, hcfg.intcon, holat, hintf, inited⟩
  case right =>
    intro s hinit
    obtain ⟨hl, hsetUp, hready⟩ := setUp_of_inited hinit
    exact ⟨hl, contract_of_ready hl hsetUp hready⟩

end Sys2Proof

/-! ## The LED commands (42_led.md) -/

namespace Sys2Proof.Machine

/-! ### Acceptance of the pin (R183, R254, R255) -/

theorem State.checkLed_of_not_isLed (word : Byte) {p : BitVec 4} (s : State) (h : isLed p = false) :
    s.checkLed word p = s.raise .invalidPinError word := by
  simp [State.checkLed, h]

/-- A command whose acceptance raises an error halts with the whole command word. -/
theorem exec_raises {i : Instr} {e : ErrCode} {s : State} (hs : s.seq = .sReady) (hi : i.format = .cmd8)
    (hinit : ∀ x, i ≠ .init x) (hraise : startCommand i s = s.raise e (commandWord i)) :
    exec i s = .next { s.raise e (commandWord i) with cmdr := commandWord i } := by
  rw [exec_accepted hs hi hinit, hraise]

/-- A command whose acceptance starts it goes on to S_EXEC1. -/
theorem exec_starts {i : Instr} {s : State} (hs : s.seq = .sReady) (hi : i.format = .cmd8)
    (hinit : ∀ x, i ≠ .init x) (hstart : startCommand i s = { s with seq := .sExec1 }) :
    exec i s = .next { s with cmdr := commandWord i, seq := .sExec1 } := by
  rw [exec_accepted hs hi hinit, hstart]

/-- Settles O22: the pin check of each of the three commands raises its error. -/
theorem invalidPinsHaltAtAcceptance : Obligations.InvalidPinsHaltAtAcceptance := by
  intro b p s hq halted
  refine ⟨fun hp => ?led, fun hp => ?button⟩
  case led =>
    have notLed : isLed p = false := decide_eq_false (Nat.not_le.mpr hp)
    exact ⟨exec_raises hq rfl nofun (State.checkLed_of_not_isLed _ s notLed),
      exec_raises hq rfl nofun (State.checkLed_of_not_isLed _ s notLed)⟩
  case button =>
    have notSw : isSw p = false := by simpa [isSw] using hp
    exact exec_raises hq rfl nofun (by simp [startCommand, notSw])

theorem exec_setled_led {on : Bool} {p : BitVec 4} {s : State} (hq : s.seq = .sReady) (hp : p.toNat ≤ 5) :
    exec (.setled on p) s = .next { s with cmdr := wordOpSP 0b001#3 on p, seq := .sExec1 } :=
  exec_starts hq rfl nofun (State.checkLed_of_isLed _ s ((isLed_iff p).mpr hp))

theorem exec_setleds_ready {on : Bool} {x : BitVec 4} {s : State} (hq : s.seq = .sReady) :
    exec (.setleds on x) s = .next { s with cmdr := wordOpSP 0b010#3 on x, seq := .sExec1 } :=
  exec_starts hq rfl nofun rfl

theorem exec_getled_led {x : Bool} {p : BitVec 4} {s : State} (hq : s.seq = .sReady) (hp : p.toNat ≤ 5) :
    exec (.getled x p) s = .next { s with cmdr := wordOpSP 0b011#3 x p, seq := .sExec1 } :=
  exec_starts hq rfl nofun (startCommand_getled x s ((isLed_iff p).mpr hp))

theorem runMove_offer_commandWord {i : Instr} (s : State) (h : i.format = .cmd8) :
    runMove (.offer (commandWord i)) s = exec i s :=
  congrArg (exec · s) (decodeCommand_commandWord h)

/-! ### The transactions of S_EXEC1 and S_EXEC2 (R180 to R182) -/

theorem seqRequest_exec1 {s : State} (hq : s.seq = .sExec1) : seqRequest s = exec1Request s := by
  simp [seqRequest, hq]

theorem seqFinish_exec1 {s : State} (hq : s.seq = .sExec1) : seqFinish s = finishExec1 s := by
  simp [seqFinish, hq]

/-- A command whose one or first transaction is a GPIO read: the read answered with a byte clears INTF, then the command
goes on. -/
theorem runMove_exec1_readGpio {s : State} {a : Answer} {g : Byte} (hq : s.seq = .sExec1)
    (hi : exec1Request s = some (readRequest .gpio s)) (hl : s.lock = .free) (hv : s.handleV = true)
    (ha : answeredByte a .gpio s = some g) :
    runMove (.seq a) s = .next (finishExec1 { s with
      trace := s.trace ++ [.rd 0x09#8 (some g)], mem := Memory.write s.mem 0x07 0x00#8, rdata := g,
      turn := .sequencer, ans := a }) := by
  have may : seqMayCall s = true := seqMayCall_of_free hv hl (by rw [hq]; decide)
  rw [runMove_seq_read ((seqRequest_exec1 hq).trans hi) may hv rfl ha, State.readOk_gpio, seqFinish_exec1]
  exact hq

/-- R180: the read of SETLED takes the byte into TMP and the lock for the write. -/
theorem runMove_setled_read {s : State} {a : Answer} {g : Byte} {on : Bool} {p : BitVec 4} (hq : s.seq = .sExec1)
    (hi : decodeCommand s.cmdr = .setled on p) (hl : s.lock = .free) (hv : s.handleV = true)
    (ha : answeredByte a .gpio s = some g) :
    runMove (.seq a) s = .next { s with
      trace := s.trace ++ [.rd 0x09#8 (some g)], mem := Memory.write s.mem 0x07 0x00#8, rdata := g,
      turn := .sequencer, ans := a, tmp := g, lock := .host, seq := .sExec2 } := by
  rw [runMove_exec1_readGpio hq (by simp [exec1Request, hi]) hl hv ha]
  simp [finishExec1, hi]

/-- R180: the write of SETLED, which gives the lock back and responds. -/
theorem runMove_setled_write {s : State} {b : Answer} {on : Bool} {p : BitVec 4} (hq : s.seq = .sExec2)
    (hi : decodeCommand s.cmdr = .setled on p) (hl : s.lock = .host) (hv : s.handleV = true)
    (hb : NoTransportError b) :
    runMove (.seq b) s = .next { s with
      trace := s.trace ++ [.wr 0x0A#8 (setBit s.tmp p.toNat on) true],
      mem := Memory.write s.mem 0x0A (setBit s.tmp p.toNat on), turn := .sequencer, ans := b,
      lock := .free, rsp := 0x00#8, responses := s.responses ++ [0x00#8], seq := .sReady } := by
  have may : seqMayCall s = true := by simp [seqMayCall, hq, hv, hl]
  rw [runMove_seq_write (seqRequest_exec2 hq hi) may hv rfl hb, seqFinish_exec2]
  · rfl
  · exact hq

/-- R181: the one write of SETLEDS, and its response. -/
theorem runMove_setleds_write {s : State} {a : Answer} {on : Bool} {x : BitVec 4} (hq : s.seq = .sExec1)
    (hi : decodeCommand s.cmdr = .setleds on x) (hl : s.lock = .free) (hv : s.handleV = true)
    (ha : NoTransportError a) :
    runMove (.seq a) s = .next { s with
      trace := s.trace ++ [.wr 0x0A#8 (if on then Config.allOn else Config.allOff) true],
      mem := Memory.write s.mem 0x0A (if on then Config.allOn else Config.allOff), turn := .sequencer, ans := a,
      rsp := 0x00#8, responses := s.responses ++ [0x00#8], seq := .sReady } := by
  have may : seqMayCall s = true := seqMayCall_of_free hv hl (by rw [hq]; decide)
  have request : exec1Request s = some (writeRequest .olat (if on then Config.allOn else Config.allOff) s) := by
    simp [exec1Request, hi]
  have finish {t : State} (ht : t.cmdr = s.cmdr) : finishExec1 t = t.respond 0x00#8 := by simp [finishExec1, ht, hi]
  rw [runMove_seq_write ((seqRequest_exec1 hq).trans request) may hv rfl ha, seqFinish_exec1, finish]
  · rfl
  · rfl
  · exact hq

/-- R182: the one read of GETLED, and the LED's state in the response. -/
theorem runMove_getled_read {s : State} {a : Answer} {g : Byte} {x : Bool} {p : BitVec 4} (hq : s.seq = .sExec1)
    (hi : decodeCommand s.cmdr = .getled x p) (hl : s.lock = .free) (hv : s.handleV = true)
    (ha : answeredByte a .gpio s = some g) :
    runMove (.seq a) s = .next { s with
      trace := s.trace ++ [.rd 0x09#8 (some g)], mem := Memory.write s.mem 0x07 0x00#8, rdata := g,
      turn := .sequencer, ans := a, rsp := bitByte (ledState g p.toNat),
      responses := s.responses ++ [bitByte (ledState g p.toNat)], seq := .sReady } := by
  rw [runMove_exec1_readGpio hq (by simp [exec1Request, hi]) hl hv ha]
  simp [finishExec1, hi, State.respond]

/-! ### The commands step by step -/

theorem bitByte_eq_ite (on : Bool) : bitByte on = if on then 0x01#8 else 0x00#8 := by cases on <;> rfl

/-- The response of GETLED is the inverted bit (R144, R182). -/
theorem bitByte_ledState (g : Byte) (pos : Nat) :
    bitByte (ledState g pos) = if g.getLsbD pos then 0x00#8 else 0x01#8 := by
  unfold ledState getBit
  cases g.getLsbD pos <;> rfl

/-- Settles O23: acceptance of an LED pin, then the read and the write of SETLED. -/
theorem setledCompletes : Obligations.SetledCompletes := by
  intro on p a b g s hq hp hl hv ha hb v t u w
  have decoded : decodeCommand t.cmdr = .setled on p := decodeCommand_commandWord (i := .setled on p) rfl
  have answered : answeredByte a .gpio t = some g := (answeredByte_congr a .gpio rfl rfl rfl).trans ha
  refine ⟨exec_setled_led hq hp, runMove_setled_read rfl decoded hl hv answered, ?_⟩
  have wrote := runMove_setled_write (s := u) rfl decoded rfl hv hb
  rwa [show u.trace = s.trace ++ [.rd 0x09#8 (some g)] from rfl, List.append_assoc] at wrote

/-- Settles O24: acceptance, then the write of SETLEDS. -/
theorem setledsCompletes : Obligations.SetledsCompletes := by
  intro on x a s hq hl hv ha v t u
  have decoded : decodeCommand t.cmdr = .setleds on x := decodeCommand_commandWord (i := .setleds on x) rfl
  exact ⟨exec_setleds_ready hq, runMove_setleds_write rfl decoded hl hv ha⟩

/-- Settles O25: acceptance of an LED pin, then the read of GETLED. -/
theorem getledCompletes : Obligations.GetledCompletes := by
  intro x p a g s hq hp hl hv ha v t u
  have decoded : decodeCommand t.cmdr = .getled x p := decodeCommand_commandWord (i := .getled x p) rfl
  have answered : answeredByte a .gpio t = some g := (answeredByte_congr a .gpio rfl rfl rfl).trans ha
  have read := runMove_getled_read rfl decoded hl hv answered
  rw [bitByte_ledState] at read
  exact ⟨exec_getled_led hq hp, read⟩

end Sys2Proof.Machine

namespace Sys2Proof

open Machine

/-! ### The commands as runs, with the latch read back (R185) -/

/-- The LED that OLAT drives at an output pin: on where the latch bit is 0 (R140, R144). -/
def latchedLed (s : State) (pos : Nat) : Bool := ledState (s.reg .olat) pos

/-- The bulk bytes have the level of `on` at every LED (R181). -/
theorem ledState_bulk (on : Bool) {pos : Nat} (h : pos ≤ 5) : ledState (if on then 0x00#8 else 0x3F#8) pos = on := by
  cases on <;> interval_cases pos <;> rfl

/-- A command has come to its end: ready again, with the response `v`, the directions of the pins as they were. -/
structure Answered (v : Byte) (s t : State) : Prop where
  ready : t.seq = .sReady
  responses : t.responses = s.responses ++ [v]
  iodir : t.reg .iodir = s.reg .iodir

/-- In S_READY the handle is open and the lock is free (R52): a command's transaction is enabled. -/
theorem Legal.open_and_free_of_ready {s : State} (h : Legal s) (hq : s.seq = .sReady) :
    s.handleV = true ∧ s.lock = .free :=
  ⟨h.handle_of_open (by rw [hq]; rfl), h.lock_free (by rw [hq]; decide)⟩

theorem Readback.tail {m : Move} {ms : List Move} {s t : State} (h : Readback (m :: ms) s) (hm : runMove m s = .next t) :
    Readback ms t := (h t hm).2

theorem Readback.head {m : Move} {ms : List Move} {s t : State} {v : Byte} (h : Readback (m :: ms) s)
    (hm : runMove m s = .next t) (htrace : t.trace = s.trace ++ [.rd 0x09#8 (some v)]) : ReadsBack v s :=
  (h t hm).1 v htrace

/-- INIT leaves the six LED pins outputs (R295). -/
theorem cfgBtn_led {pos : Nat} (h : pos ≤ 5) : Config.cfgBtn.getLsbD pos = false := by
  interval_cases pos <;> rfl

/-- With the latch read back, the byte read shows every LED as the latch drives it. -/
theorem ledState_of_readsBack {g : Byte} {s : State} {pos : Nat} (h : ReadsBack g s)
    (hdir : s.reg .iodir = Config.cfgBtn) (hpos : pos ≤ 5) : ledState g pos = latchedLed s pos :=
  congrArg (!·) (h pos (by omega) (by rw [hdir, cfgBtn_led hpos]))

/-- R180, R185: SETLED under `Readback` puts its own LED and leaves every other as the latch had it. -/
theorem setled_run {on : Bool} {p : BitVec 4} {a b : Answer} {rest : List Move} {s : State} (h : Legal s)
    (hq : s.seq = .sReady) (hdir : s.reg .iodir = Config.cfgBtn) (hp : p.toNat ≤ 5) (ha : NoTransportError a)
    (hb : NoTransportError b) (hback : Readback (.offer (wordOpSP 0b001#3 on p) :: .seq a :: rest) s) :
    ∃ t, runMoves [.offer (wordOpSP 0b001#3 on p), .seq a, .seq b] s = .next t ∧ Answered 0x00#8 s t ∧
      latchedLed t p.toNat = on ∧ ∀ q, q ≤ 5 → q ≠ p.toNat → latchedLed t q = latchedLed s q := by
  obtain ⟨g, hg⟩ := answeredByte_some ha .gpio s
  obtain ⟨hv, hl⟩ := h.open_and_free_of_ready hq
  obtain ⟨accepted, read, write⟩ := setledCompletes on p a b g s hq hp hl hv hg hb
  have offered := (runMove_offer_commandWord (i := .setled on p) s rfl).trans accepted
  have run := (runMoves_cons _ offered).trans ((runMoves_cons _ read).trans (runMoves_cons [] write))
  have shown {q : Nat} (hled : q ≤ 5) : ledState g q = latchedLed s q :=
    ledState_of_readsBack (s := s) ((hback.tail offered).head read rfl) hdir hled
  have latched : ((s.setReg .intf 0x00#8).setReg .olat (setBit g p.toNat on)).reg .olat = setBit g p.toNat on :=
    State.reg_setReg_same _ _ _ (s.setReg_wf _ _ h.mem.wf)
  have directions : ((s.setReg .intf 0x00#8).setReg .olat (setBit g p.toNat on)).reg .iodir = s.reg .iodir :=
    (State.reg_setReg_other _ _ _ _ (by decide)).trans (s.reg_setReg_other _ _ _ (by decide))
  refine ⟨_, run, ⟨rfl, rfl, directions⟩, ?own, fun q hled hne => ?other⟩
  case own => exact (congrArg (ledState · p.toNat) latched).trans (ledState_setBit_same g on (by omega))
  case other =>
    exact (congrArg (ledState · q) latched).trans
      ((ledState_setBit_other g on (by omega) (by omega) hne).trans (shown hled))

/-- R181, R185: SETLEDS puts every LED; no read, so nothing has to read back. -/
theorem setleds_run {on : Bool} {y : BitVec 4} {a : Answer} {s : State} (h : Legal s) (hq : s.seq = .sReady)
    (ha : NoTransportError a) :
    ∃ t, runMoves [.offer (wordOpSP 0b010#3 on y), .seq a] s = .next t ∧ Answered 0x00#8 s t ∧
      ∀ q, q ≤ 5 → latchedLed t q = on := by
  obtain ⟨hv, hl⟩ := h.open_and_free_of_ready hq
  obtain ⟨accepted, write⟩ := setledsCompletes on y a s hq hl hv ha
  have offered := (runMove_offer_commandWord (i := .setleds on y) s rfl).trans accepted
  have latched : (s.setReg .olat (if on then 0x00#8 else 0x3F#8)).reg .olat = if on then 0x00#8 else 0x3F#8 :=
    s.reg_setReg_same _ _ h.mem.wf
  refine ⟨_, (runMoves_cons _ offered).trans (runMoves_cons [] write),
    ⟨rfl, rfl, s.reg_setReg_other .olat .iodir _ (by decide)⟩, fun q hled => ?_⟩
  exact (congrArg (ledState · q) latched).trans (ledState_bulk on hled)

/-- R182, R185: GETLED under `Readback` answers what the latch drives. -/
theorem getled_run {x : Bool} {q : BitVec 4} {a : Answer} {s : State} (h : Legal s) (hq : s.seq = .sReady)
    (hdir : s.reg .iodir = Config.cfgBtn) (hled : q.toNat ≤ 5) (ha : NoTransportError a)
    (hback : Readback [.offer (wordOpSP 0b011#3 x q), .seq a] s) :
    ∃ t, runMoves [.offer (wordOpSP 0b011#3 x q), .seq a] s = .next t ∧
      Answered (bitByte (latchedLed s q.toNat)) s t := by
  obtain ⟨g, hg⟩ := answeredByte_some ha .gpio s
  obtain ⟨hv, hl⟩ := h.open_and_free_of_ready hq
  obtain ⟨accepted, read⟩ := getledCompletes x q a g s hq hled hl hv hg
  have offered := (runMove_offer_commandWord (i := .getled x q) s rfl).trans accepted
  have shown : ledState g q.toNat = latchedLed s q.toNat :=
    ledState_of_readsBack (s := s) ((hback.tail offered).head read rfl) hdir hled
  rw [← shown, bitByte_ledState]
  exact ⟨_, (runMoves_cons _ offered).trans (runMoves_cons [] read),
    rfl, rfl, s.reg_setReg_other .intf .iodir _ (by decide)⟩

/-- A command that has come to its end, and a GETLED behind it: the second response is the LED as the first left it. -/
theorem getled_after {ms : List Move} {v : Byte} {x : Bool} {q : BitVec 4} {a : Answer} {s t : State} (h : Legal s)
    (run : runMoves ms s = .next t) (done : Answered v s t) (hdir : s.reg .iodir = Config.cfgBtn)
    (hled : q.toNat ≤ 5) (ha : NoTransportError a)
    (hback : Readback (ms ++ [.offer (wordOpSP 0b011#3 x q), .seq a]) s) :
    ∃ u, runMoves (ms ++ [.offer (wordOpSP 0b011#3 x q), .seq a]) s = .next u ∧ u.seq = .sReady ∧ u.err = .none ∧
      u.responses = s.responses ++ [v, bitByte (latchedLed t q.toNat)] := by
  obtain ⟨legal, -⟩ := kept_runMoves h run
  obtain ⟨-, back⟩ := everyStep_append hback run
  obtain ⟨u, run', asked⟩ := getled_run legal done.ready (done.iodir.trans hdir) hled ha back
  obtain ⟨legal', -⟩ := kept_runMoves legal run'
  refine ⟨u, (runMoves_append _ run).trans run', asked.ready, legal'.err_none (by rw [asked.ready]; decide), ?_⟩
  rw [asked.responses, done.responses, List.append_assoc, List.singleton_append]

/-- Settles O33: SETLED puts its own LED in the latch and no other, GETLED answers the latch. -/
theorem ledRoundTripAndIsolation : Obligations.LedRoundTripAndIsolation := by
  intro on x p q a b c s moves h hq hcfg hp hled hok hback
  obtain ⟨t, run, done, own, other⟩ := setled_run (b := b) h hq hcfg.iodir hp (hok a (by simp [moves]))
    (hok b (by simp [moves])) hback
  obtain ⟨u, run', ready, noError, responses⟩ := getled_after h run done hcfg.iodir hled (hok c (by simp [moves])) hback
  refine ⟨u, run', ready, noError, fun same => ?roundTrip, fun hne => ?isolation⟩
  case roundTrip => rw [responses, same, own, bitByte_eq_ite]
  case isolation =>
    rw [responses, other q.toNat hled fun e => hne (BitVec.eq_of_toNat_eq e), latchedLed, bitByte_ledState]

/-- Settles O34: SETLEDS puts every LED in the latch, GETLED answers the latch. -/
theorem bulkLedsReadBack : Obligations.BulkLedsReadBack := by
  intro on x y q a b s moves h hq hcfg hled hok hback
  obtain ⟨t, run, done, all⟩ := setleds_run (on := on) (y := y) h hq (hok a (by simp [moves]))
  obtain ⟨u, run', ready, noError, responses⟩ := getled_after h run done hcfg.iodir hled (hok b (by simp [moves])) hback
  exact ⟨u, run', ready, noError, by rw [responses, all q.toNat hled, bitByte_eq_ite]⟩

end Sys2Proof

/-! ## The button commands (43_button.md) -/

namespace Sys2Proof.Machine

/-! ### Acceptance (R200 to R202) -/

theorem exec_pollbtn_ready {x : BitVec 5} {s : State} (hq : s.seq = .sReady) :
    exec (.pollbtn x) s = .next { s with cmdr := wordOpX 0b100#3 x, seq := .sExec1 } :=
  exec_starts hq rfl nofun rfl

theorem exec_clrint_ready {x : BitVec 5} {s : State} (hq : s.seq = .sReady) :
    exec (.clrint x) s = .next { s with cmdr := wordOpX 0b101#3 x, seq := .sExec1 } :=
  exec_starts hq rfl nofun rfl

theorem exec_btnstate_button {x : Bool} {p : BitVec 4} {s : State} (hq : s.seq = .sReady)
    (hp : p.toNat = 6 ∨ p.toNat = 7) :
    exec (.btnstate x p) s = .next { s with cmdr := wordOpSP 0b110#3 x p, seq := .sExec1 } :=
  exec_starts hq rfl nofun (startCommand_btnstate x s ((isSw_iff p).mpr hp))

/-! ### The one transaction of each (R200 to R202) -/

theorem State.readOk_intf (f : Byte) (s : State) :
    s.readOk .intf f = { s with trace := s.trace ++ [.rd 0x07#8 (some f)], rdata := f } := rfl

/-- A command whose one transaction is an INTF read: the read answered with a byte leaves the expander, then the command
goes on. -/
theorem runMove_exec1_readIntf {s : State} {a : Answer} {f : Byte} (hq : s.seq = .sExec1)
    (hi : exec1Request s = some (readRequest .intf s)) (hl : s.lock = .free) (hv : s.handleV = true)
    (ha : answeredByte a .intf s = some f) :
    runMove (.seq a) s = .next (finishExec1 { s with
      trace := s.trace ++ [.rd 0x07#8 (some f)], rdata := f, turn := .sequencer, ans := a }) := by
  have may : seqMayCall s = true := seqMayCall_of_free hv hl (by rw [hq]; decide)
  rw [runMove_seq_read ((seqRequest_exec1 hq).trans hi) may hv rfl ha, State.readOk_intf, seqFinish_exec1]
  exact hq

/-- R200: the one read of POLLBTN, and the event code in the response. -/
theorem runMove_pollbtn_read {s : State} {a : Answer} {f : Byte} {x : BitVec 5} (hq : s.seq = .sExec1)
    (hi : decodeCommand s.cmdr = .pollbtn x) (hl : s.lock = .free) (hv : s.handleV = true)
    (ha : answeredByte a .intf s = some f) :
    runMove (.seq a) s = .next { s with
      trace := s.trace ++ [.rd 0x07#8 (some f)], rdata := f, turn := .sequencer, ans := a,
      rsp := eventByte (decodeButton f), responses := s.responses ++ [eventByte (decodeButton f)], seq := .sReady } := by
  rw [runMove_exec1_readIntf hq (by simp [exec1Request, hi]) hl hv ha]
  simp [finishExec1, hi, State.respond]

/-- R201: the one read of CLRINT, whose byte is discarded. -/
theorem runMove_clrint_read {s : State} {a : Answer} {g : Byte} {x : BitVec 5} (hq : s.seq = .sExec1)
    (hi : decodeCommand s.cmdr = .clrint x) (hl : s.lock = .free) (hv : s.handleV = true)
    (ha : answeredByte a .gpio s = some g) :
    runMove (.seq a) s = .next { s with
      trace := s.trace ++ [.rd 0x09#8 (some g)], mem := Memory.write s.mem 0x07 0x00#8, rdata := g,
      turn := .sequencer, ans := a, rsp := 0x00#8, responses := s.responses ++ [0x00#8], seq := .sReady } := by
  rw [runMove_exec1_readGpio hq (by simp [exec1Request, hi]) hl hv ha]
  simp [finishExec1, hi, State.respond]

/-- R202: the one read of BTNSTATE, and the pin's own flag in the response. -/
theorem runMove_btnstate_read {s : State} {a : Answer} {f : Byte} {x : Bool} {p : BitVec 4} (hq : s.seq = .sExec1)
    (hi : decodeCommand s.cmdr = .btnstate x p) (hl : s.lock = .free) (hv : s.handleV = true)
    (ha : answeredByte a .intf s = some f) :
    runMove (.seq a) s = .next { s with
      trace := s.trace ++ [.rd 0x07#8 (some f)], rdata := f, turn := .sequencer, ans := a,
      rsp := bitByte (getBit f p.toNat), responses := s.responses ++ [bitByte (getBit f p.toNat)], seq := .sReady } := by
  rw [runMove_exec1_readIntf hq (by simp [exec1Request, hi]) hl hv ha]
  simp [finishExec1, hi, State.respond]

/-! ### The commands step by step -/

/-- The response of POLLBTN: SW1 before SW2 (R145, R200). -/
theorem eventByte_decodeButton (f : Byte) :
    eventByte (decodeButton f) = if f.getLsbD 6 then 0x01#8 else if f.getLsbD 7 then 0x02#8 else 0x00#8 := by
  unfold decodeButton getBit
  cases f.getLsbD 6 <;> cases f.getLsbD 7 <;> rfl

/-- Settles O26: acceptance, then the read of POLLBTN. -/
theorem pollbtnCompletes : Obligations.PollbtnCompletes := by
  intro x a f s hq hl hv ha v t u
  have decoded : decodeCommand t.cmdr = .pollbtn x := decodeCommand_commandWord (i := .pollbtn x) rfl
  have answered : answeredByte a .intf t = some f := (answeredByte_congr a .intf rfl rfl rfl).trans ha
  have read := runMove_pollbtn_read rfl decoded hl hv answered
  rw [eventByte_decodeButton] at read
  exact ⟨exec_pollbtn_ready hq, read⟩

/-- Settles O27: acceptance, then the read of CLRINT. -/
theorem clrintCompletes : Obligations.ClrintCompletes := by
  intro x a g s hq hl hv ha t u
  have decoded : decodeCommand t.cmdr = .clrint x := decodeCommand_commandWord (i := .clrint x) rfl
  have answered : answeredByte a .gpio t = some g := (answeredByte_congr a .gpio rfl rfl rfl).trans ha
  exact ⟨exec_clrint_ready hq, runMove_clrint_read rfl decoded hl hv answered⟩

/-- Settles O28: acceptance of a button pin, then the read of BTNSTATE. -/
theorem btnstateCompletes : Obligations.BtnstateCompletes := by
  intro x p a f s hq hp hl hv ha v t u
  have decoded : decodeCommand t.cmdr = .btnstate x p := decodeCommand_commandWord (i := .btnstate x p) rfl
  have answered : answeredByte a .intf t = some f := (answeredByte_congr a .intf rfl rfl rfl).trans ha
  have read := runMove_btnstate_read rfl decoded hl hv answered
  rw [bitByte_eq_ite] at read
  exact ⟨exec_btnstate_button hq hp, read⟩

/-! ### Steps around the commands' own -/

/-- A command is accepted, and the run goes on. -/
theorem runMoves_command {i : Instr} {s t : State} (ms : List Move) (hi : i.format = .cmd8) (h : exec i s = .next t) :
    runMoves (.offer (commandWord i) :: ms) s = runMoves ms t :=
  runMoves_cons ms ((runMove_offer_commandWord s hi).trans h)

/-- A ready sequencer has no step of its own (R10). -/
theorem runMove_seq_ready {s : State} (a : Answer) (hq : s.seq = .sReady) : runMove (.seq a) s = .next s := by
  simp [runMove, seqStep, hq]

/-- R227: the monitor's clearing read, answered with a byte that is discarded. -/
theorem runMove_monClear_read {s : State} {a : Answer} {g : Byte} (hm : s.mon = .mClear) (hq : s.seq ≠ .sHalt)
    (hl : s.lock = .free) (hv : s.handleV = true) (ha : answeredByte a .gpio s = some g) :
    runMove (.mon a) s = .next { s with
      trace := s.trace ++ [.rd 0x09#8 (some g)], mem := Memory.write s.mem 0x07 0x00#8, rdata := g,
      turn := .monitor, ans := a, mon := .mDispatch } := by
  have request : monRequest s = some (readRequest .gpio s) := by simp [monRequest, hm]
  have may : monMayCall s = true := by simp [monMayCall, hv, hl]
  rw [runMove_mon_read hq request may hv rfl ha, State.readOk_gpio]
  simp [monFinish, hm]

end Sys2Proof.Machine

namespace Sys2Proof

open Machine

/-! ### Stale events (R204) -/

/-- The words of POLLBTN, and of BTNSTATE with a button pin. -/
def AsksFlags (w : Byte) : Prop :=
  (∃ y, decodeCommand w = .pollbtn y) ∨ ∃ y p, decodeCommand w = .btnstate y p ∧ (p.toNat = 6 ∨ p.toNat = 7)

/-- What such a word is answered with while INTF is `f`: the event code, or the pin's own flag (R200, R202). -/
def flagsAnswer (f w : Byte) : Byte :=
  if opField w = 0b100#3 then (if f.getLsbD 6 then 0x01#8 else if f.getLsbD 7 then 0x02#8 else 0x00#8)
  else if f.getLsbD (w &&& 0x0F#8).toNat then 0x01#8 else 0x00#8

/-- The words of CLRINT, and of GETLED and SETLED with an LED pin: the commands with a GPIO read. -/
def ClearsFlags (w : Byte) : Prop :=
  (∃ y, decodeCommand w = .clrint y) ∨ (∃ y p, decodeCommand w = .getled y p ∧ p.toNat ≤ 5) ∨
  ∃ on p, decodeCommand w = .setled on p ∧ p.toNat ≤ 5

/-- The run of a list of command words, each with the answer to its one transaction. -/
def commandsRun (cs : List (Byte × Answer)) : List Move := cs.flatMap fun c => [.offer c.1, .seq c.2]

/-- Commands have come to their end and have only looked: ready again, the responses `vs`, expander and monitor as they
were. -/
structure Looked (vs : List Byte) (s t : State) : Prop where
  ready : t.seq = .sReady
  mem : t.mem = s.mem
  mon : t.mon = s.mon
  responses : t.responses = s.responses ++ vs

theorem Looked.trans {vs ws : List Byte} {s t u : State} (h : Looked vs s t) (k : Looked ws t u) :
    Looked (vs ++ ws) s u :=
  ⟨k.ready, k.mem.trans h.mem, k.mon.trans h.mon, by rw [k.responses, h.responses, List.append_assoc]⟩

/-- A run has cleared INTF: ready at its end, with the responses `vs`. -/
structure Cleared (vs : List Byte) (s t : State) : Prop where
  ready : t.seq = .sReady
  flags : t.reg .intf = 0x00#8
  responses : t.responses = s.responses ++ vs

theorem eq_commandWord_of_decodeCommand {w : Byte} {i : Instr} (h : decodeCommand w = i) : w = commandWord i := by
  rw [← h, commandWord_decodeCommand]

theorem flagsAnswer_pollbtn (f : Byte) (y : BitVec 5) :
    flagsAnswer f (wordOpX 0b100#3 y) =
      if f.getLsbD 6 then 0x01#8 else if f.getLsbD 7 then 0x02#8 else 0x00#8 := by
  simp [flagsAnswer]

/-- The low four bits of a word are its pin (R111). -/
theorem and_0x0F_toNat (w : Byte) : (w &&& 0x0F#8).toNat = (pinField w).toNat := by
  simpa [pinField] using Nat.and_two_pow_sub_one_eq_mod w.toNat 4

theorem flagsAnswer_btnstate (f : Byte) (y : Bool) (p : BitVec 4) :
    flagsAnswer f (wordOpSP 0b110#3 y p) = if f.getLsbD p.toNat then 0x01#8 else 0x00#8 := by
  rw [flagsAnswer, and_0x0F_toNat, opField_wordOpSP, pinField_wordOpSP, if_neg (by decide)]

theorem PeripheralP1toP6.tail {m : Move} {ms : List Move} {s t : State} (h : PeripheralP1toP6 (m :: ms) s)
    (hm : runMove m s = .next t) : PeripheralP1toP6 ms t := (h t hm).2

/-- P5: an INTF read is answered with the flags. -/
theorem PeripheralP1toP6.flags_read {m : Move} {ms : List Move} {s t : State} {v : Byte}
    (h : PeripheralP1toP6 (m :: ms) s) (hm : runMove m s = .next t)
    (htrace : t.trace = s.trace ++ [.rd 0x07#8 (some v)]) : v = s.reg .intf := (h t hm).1.1 v htrace

/-- R200, R202: one POLLBTN or BTNSTATE whose INTF read is answered with `f`: it is answered by `f`. -/
theorem asksFlags_answered {w f : Byte} {a : Answer} {s : State} (h : Legal s) (hq : s.seq = .sReady)
    (hw : AsksFlags w) (hf : answeredByte a .intf s = some f) :
    ∃ t u, runMove (.offer w) s = .next t ∧ t.mem = s.mem ∧ runMove (.seq a) t = .next u ∧
      u.trace = t.trace ++ [.rd 0x07#8 (some f)] ∧ Looked [flagsAnswer f w] s u := by
  obtain ⟨hv, hl⟩ := h.open_and_free_of_ready hq
  rcases hw with ⟨y, hi⟩ | ⟨y, p, hi, hp⟩ <;> obtain rfl := eq_commandWord_of_decodeCommand hi
  case inl =>
    obtain ⟨accepted, read⟩ := pollbtnCompletes y a f s hq hl hv hf
    have offered := (runMove_offer_commandWord (i := .pollbtn y) s rfl).trans accepted
    exact ⟨_, _, offered, rfl, read, rfl, rfl, rfl, rfl, congrArg (s.responses ++ [·]) (flagsAnswer_pollbtn f y).symm⟩
  case inr =>
    obtain ⟨accepted, read⟩ := btnstateCompletes y p a f s hq hp hl hv hf
    have offered := (runMove_offer_commandWord (i := .btnstate y p) s rfl).trans accepted
    exact ⟨_, _, offered, rfl, read, rfl, rfl, rfl, rfl,
      congrArg (s.responses ++ [·]) (flagsAnswer_btnstate f y p).symm⟩

/-- R88, R204: under P5 that `f` is INTF, which the command leaves as it is. -/
theorem asksFlags_run {w : Byte} {a : Answer} {rest : List Move} {s : State} (h : Legal s) (hq : s.seq = .sReady)
    (hw : AsksFlags w) (ha : NoTransportError a) (hper : PeripheralP1toP6 (.offer w :: .seq a :: rest) s) :
    ∃ t, runMoves [.offer w, .seq a] s = .next t ∧ Looked [flagsAnswer (s.reg .intf) w] s t := by
  obtain ⟨f, hf⟩ := answeredByte_some ha .intf s
  obtain ⟨t, u, offered, hmem, read, htrace, looked⟩ := asksFlags_answered h hq hw hf
  have flags : f = s.reg .intf :=
    ((hper.tail offered).flags_read read htrace).trans (State.reg_congr .intf hmem)
  exact ⟨u, (runMoves_cons _ offered).trans (runMoves_cons [] read), flags ▸ looked⟩

/-- R204: any number of them, by induction on the list: each finds the INTF that the one before it found. -/
theorem asksFlags_runs {cs : List (Byte × Answer)} {s : State} (h : Legal s) (hq : s.seq = .sReady)
    (hask : ∀ c ∈ cs, AsksFlags c.1) (hok : NoTransportErrorIn (commandsRun cs))
    (hper : PeripheralP1toP6 (commandsRun cs) s) :
    ∃ t, runMoves (commandsRun cs) s = .next t ∧ Looked (cs.map fun c => flagsAnswer (s.reg .intf) c.1) s t := by
  induction cs generalizing s with
  | nil => exact ⟨s, rfl, hq, rfl, rfl, (List.append_nil _).symm⟩
  | cons c cs ih =>
    obtain ⟨t, run, one⟩ := asksFlags_run h hq (hask c (by simp)) (hok c.2 (by simp [commandsRun])) hper
    have okRest : NoTransportErrorIn (commandsRun cs) := fun a ha =>
      hok a (ha.imp (List.mem_append_right _) (List.mem_append_right _))
    have perRest : PeripheralP1toP6 (commandsRun cs) t :=
      (everyStep_append (a := [.offer c.1, .seq c.2]) hper run).2
    obtain ⟨u, runRest, others⟩ :=
      ih (kept_runMoves h run).1 one.ready (fun d hd => hask d (by simp [hd])) okRest perRest
    rw [State.reg_congr .intf one.mem] at others
    exact ⟨u, (runMoves_append _ run).trans runRest, one.trans others⟩

/-- R89: CLRINT, GETLED and SETLED clear INTF by their GPIO read; the write of SETLED leaves it so, and the others have no
second transaction. -/
theorem clearsFlags_run {w : Byte} {a b : Answer} {s : State} (h : Legal s) (hq : s.seq = .sReady) (hw : ClearsFlags w)
    (ha : NoTransportError a) (hb : NoTransportError b) :
    ∃ v t, runMoves [.offer w, .seq a, .seq b] s = .next t ∧ Cleared [v] s t := by
  obtain ⟨g, hg⟩ := answeredByte_some ha .gpio s
  obtain ⟨hv, hl⟩ := h.open_and_free_of_ready hq
  have cleared : (s.setReg .intf 0x00#8).reg .intf = 0x00#8 := s.reg_setReg_same _ _ h.mem.wf
  rcases hw with ⟨y, hi⟩ | ⟨y, p, hi, hp⟩ | ⟨on, p, hi, hp⟩ <;> obtain rfl := eq_commandWord_of_decodeCommand hi
  case inl =>
    obtain ⟨accepted, read⟩ := clrintCompletes y a g s hq hl hv hg
    exact ⟨_, _, (runMoves_command _ rfl accepted).trans ((runMoves_cons _ read).trans
      (runMoves_cons [] (runMove_seq_ready b rfl))), rfl, cleared, rfl⟩
  case inr.inl =>
    obtain ⟨accepted, read⟩ := getledCompletes y p a g s hq hp hl hv hg
    exact ⟨_, _, (runMoves_command _ rfl accepted).trans ((runMoves_cons _ read).trans
      (runMoves_cons [] (runMove_seq_ready b rfl))), rfl, cleared, rfl⟩
  case inr.inr =>
    obtain ⟨accepted, read, write⟩ := setledCompletes on p a b g s hq hp hl hv hg hb
    exact ⟨_, _, (runMoves_command _ rfl accepted).trans ((runMoves_cons _ read).trans (runMoves_cons [] write)), rfl,
      (State.reg_setReg_other _ .olat .intf _ (by decide)).trans cleared, rfl⟩

/-- R227: the clearing read of the monitor, in M_CLEAR, clears INTF and responds nothing. -/
theorem monClear_run {a : Answer} {s : State} (h : Legal s) (hq : s.seq = .sReady) (hm : s.mon = .mClear)
    (ha : NoTransportError a) : ∃ t, runMoves [.mon a] s = .next t ∧ Cleared [] s t := by
  obtain ⟨g, hg⟩ := answeredByte_some ha .gpio s
  obtain ⟨hv, hl⟩ := h.open_and_free_of_ready hq
  have read := runMove_monClear_read hm (by rw [hq]; decide) hl hv hg
  exact ⟨_, runMoves_cons [] read, hq, s.reg_setReg_same .intf 0x00#8 h.mem.wf, (List.append_nil _).symm⟩

/-- A run that has cleared INTF, and a POLLBTN behind it: the event code is none. -/
theorem pollbtn_after_cleared {ms : List Move} {vs : List Byte} {x : BitVec 5} {c : Answer} {s t : State} (h : Legal s)
    (run : runMoves ms s = .next t) (cleared : Cleared vs s t) (hc : NoTransportError c)
    (hper : PeripheralP1toP6 (ms ++ [.offer (wordOpX 0b100#3 x), .seq c]) s) :
    ∃ u, runMoves (ms ++ [.offer (wordOpX 0b100#3 x), .seq c]) s = .next u ∧
      u.responses = s.responses ++ (vs ++ [0x00#8]) ∧ u.seq = .sReady := by
  obtain ⟨-, per⟩ := everyStep_append hper run
  have asks : AsksFlags (wordOpX 0b100#3 x) := .inl ⟨x, decodeCommand_commandWord (i := .pollbtn x) rfl⟩
  obtain ⟨u, run', polled⟩ := asksFlags_run (kept_runMoves h run).1 cleared.ready asks hc per
  have noEvent : flagsAnswer (t.reg .intf) (wordOpX 0b100#3 x) = 0x00#8 := by
    rw [cleared.flags, flagsAnswer_pollbtn]
    rfl
  refine ⟨u, (runMoves_append _ run).trans run', ?_, polled.ready⟩
  rw [polled.responses, noEvent, cleared.responses, List.append_assoc]

/-- Settles O56: the questions leave INTF, whatever their number; each way to clear it, and the POLLBTN behind it. -/
theorem staleEventsUntilCleared : Obligations.StaleEventsUntilCleared := by
  intro cs x w a b c s h hq f asks answer clears asking poll hosts monitors hask hok hper
  obtain ⟨t, run, looked⟩ := asksFlags_runs (cs := cs) h hq hask hok hper
  have legal : Legal t := (kept_runMoves h run).1
  refine ⟨t, run, legal, looked.ready, looked.mem, looked.mon, looked.responses,
    fun hclears hok' hper' => ?host, fun hclear hok' hper' => ?monitor⟩
  case host =>
    obtain ⟨v, u, run', cleared⟩ := clearsFlags_run legal looked.ready hclears
      (hok' a (by simp [hosts])) (hok' b (by simp [hosts]))
    obtain ⟨z, runAll, responses, ready⟩ :=
      pollbtn_after_cleared legal run' cleared (hok' c (by simp [hosts, poll])) hper'
    exact ⟨z, v, runAll, responses, ready⟩
  case monitor =>
    obtain ⟨u, run', cleared⟩ := monClear_run legal looked.ready (looked.mon.trans hclear)
      (hok' a (by simp [monitors]))
    exact pollbtn_after_cleared legal run' cleared (hok' c (by simp [monitors, poll])) hper'

end Sys2Proof

/-! ## The monitor (44_monitor.md) -/

namespace Sys2Proof.Machine

/-! ### MON START and MON STOP (R220) -/

/-- A response in S_READY leaves SEQ as it is. -/
theorem State.respond_of_ready {s : State} (v : Byte) (hq : s.seq = .sReady) :
    s.respond v = { s with rsp := v, responses := s.responses ++ [v] } := by
  rw [State.respond, ← hq]

/-- A command whose acceptance responds stays in S_READY. -/
theorem exec_responds {i : Instr} {v : Byte} {s t : State} (hs : s.seq = .sReady) (hi : i.format = .cmd8)
    (hinit : ∀ x, i ≠ .init x) (hstart : startCommand i s = t.respond v) (ht : t.seq = .sReady) :
    exec i s = .next { t with cmdr := commandWord i, rsp := v, responses := t.responses ++ [v] } := by
  rw [exec_accepted hs hi hinit, hstart, State.respond_of_ready v ht]

/-- Settles O29: both are accepted in S_READY, and their acceptance responds. -/
theorem monitorCommandsComplete : Obligations.MonitorCommandsComplete := fun x _ hq =>
  ⟨exec_responds (i := .monstart x) hq rfl nofun rfl hq, exec_responds (i := .monstop x) hq rfl nofun rfl hq⟩

/-! ### One equation per step of the monitor (R222, R223, R226, R228, R230) -/

theorem runMove_mon_live {s : State} (a : Answer) (hq : s.seq ≠ .sHalt) : runMove (.mon a) s = monLive a s :=
  if_neg hq

/-- R101: while the host has the lock, no call of the monitor is enabled. -/
theorem monCall_locked {s : State} (a : Answer) (hl : s.lock = .host) : monCall a s = .next s := by
  have waits : monMayCall s = false := by simp [monMayCall, hl]
  unfold monCall
  split
  · rw [waits, cond_false]
  · rfl

theorem runMove_monOff {s : State} (a : Answer) (hq : s.seq ≠ .sHalt) (hm : s.mon = .mOff) :
    runMove (.mon a) s = .next s := by
  rw [runMove_mon_live a hq, monLive, hm]

theorem runMove_monIdle_stops {s : State} (a : Answer) (hq : s.seq ≠ .sHalt) (hm : s.mon = .mIdle)
    (he : s.monEn = false) : runMove (.mon a) s = .next { s with mon := .mOff } := by
  rw [runMove_mon_live a hq, monLive, hm, he, cond_false]

theorem runMove_monIdle_locked {s : State} (a : Answer) (hq : s.seq ≠ .sHalt) (hm : s.mon = .mIdle)
    (he : s.monEn = true) (hl : s.lock = .host) : runMove (.mon a) s = .next s := by
  rw [runMove_mon_live a hq, monLive, hm, he, cond_true, monCall_locked a hl]

theorem runMove_monClear_locked {s : State} (a : Answer) (hq : s.seq ≠ .sHalt) (hm : s.mon = .mClear)
    (hl : s.lock = .host) : runMove (.mon a) s = .next s := by
  rw [runMove_mon_live a hq, monLive, hm, monCall_locked a hl]

theorem runMove_monDebounce_waits {s : State} (a : Answer) (hq : s.seq ≠ .sHalt) (hm : s.mon = .mDebounce)
    (hd : s.dbt ≠ 0#16) : runMove (.mon a) s = .next s := by
  rw [runMove_mon_live a hq, monLive, hm, if_neg hd]

theorem runMove_monDebounce_ends {s : State} (a : Answer) (hq : s.seq ≠ .sHalt) (hm : s.mon = .mDebounce)
    (hd : s.dbt = 0#16) : runMove (.mon a) s = .next { s with mon := .mClear } := by
  rw [runMove_mon_live a hq, monLive, hm, if_pos hd]

theorem runMove_monDispatch_waits {s : State} (a : Answer) (hq : s.seq ≠ .sHalt) (hm : s.mon = .mDispatch)
    (hc : s.evtReady = false) : runMove (.mon a) s = .next s := by
  rw [runMove_mon_live a hq, monLive, hm, hc, cond_false]

theorem runMove_monDispatch_delivers {s : State} (a : Answer) (hq : s.seq ≠ .sHalt) (hm : s.mon = .mDispatch)
    (hc : s.evtReady = true) :
    runMove (.mon a) s = .next { s with events := s.events ++ [s.evt], mon := .mIdle } := by
  rw [runMove_mon_live a hq, monLive, hm, hc, cond_true]
  rfl

/-- Settles O50: one equation per clause. -/
theorem monitorStopsAndHolds : Obligations.MonitorStopsAndHolds := fun a _ hq =>
  ⟨runMove_monOff a hq, runMove_monIdle_stops a hq, runMove_monIdle_locked a hq, runMove_monClear_locked a hq⟩

/-- Settles O49: the clearing read, and the two equations of M_DISPATCH. -/
theorem monitorClearsThenDispatches : Obligations.MonitorClearsThenDispatches := fun a _ _ hq =>
  ⟨fun hm => runMove_monClear_read hm hq, runMove_monDispatch_delivers a hq, runMove_monDispatch_waits a hq⟩

/-! ### The poll (R223, R224) -/

theorem monRequest_idle {s : State} (hm : s.mon = .mIdle) (he : s.monEn = true) :
    monRequest s = some (readRequest .intf s) := by
  simp [monRequest, hm, he]

theorem monRequest_clear {s : State} (hm : s.mon = .mClear) : monRequest s = some (readRequest .gpio s) := by
  simp [monRequest, hm]

theorem monMayCall_of_free {s : State} (hl : s.lock = .free) (hv : s.handleV = true) : monMayCall s = true := by
  simp [monMayCall, hv, hl]

theorem monFinish_idle_quiet {s : State} (hm : s.mon = .mIdle) (hb : decodeButton s.rdata = .none) :
    monFinish s = s := by
  rw [monFinish, hm, hb]

/-- Detection: whichever button is found is latched, and the debounce starts. -/
theorem monFinish_idle_detects {s : State} (hm : s.mon = .mIdle) (hb : decodeButton s.rdata ≠ .none) :
    monFinish s = { s with evt := decodeButton s.rdata, dbt := Config.debounceMs, mon := .mDebounce } := by
  rw [monFinish, hm]
  cases hf : decodeButton s.rdata with
  | none => exact absurd hf hb
  | sw1 | sw2 => rfl

/-- The state after a poll answered with the byte `f`, before it is looked at. -/
def State.polled (f : Byte) (a : Answer) (s : State) : State :=
  { s with trace := s.trace ++ [.rd 0x07#8 (some f)], rdata := f, turn := .monitor, ans := a }

/-- The state after a poll whose byte shows a button. -/
def State.detected (f : Byte) (a : Answer) (s : State) : State :=
  { s.polled f a with evt := decodeButton f, dbt := Config.debounceMs, mon := .mDebounce }

/-- The poll is enabled (R101, R223). -/
structure PollEnabled (s : State) : Prop where
  idle : s.mon = .mIdle
  started : s.monEn = true
  live : s.seq ≠ .sHalt
  free : s.lock = .free
  handle : s.handleV = true

theorem runMove_monIdle_read {s : State} {a : Answer} {f : Byte} (h : PollEnabled s)
    (ha : answeredByte a .intf s = some f) : runMove (.mon a) s = .next (monFinish (s.polled f a)) := by
  rw [runMove_mon_read h.live (monRequest_idle h.idle h.started) (monMayCall_of_free h.free h.handle) h.handle rfl ha,
    State.readOk_intf]
  rfl

theorem runMove_monIdle_quiet {s : State} {a : Answer} {f : Byte} (h : PollEnabled s)
    (ha : answeredByte a .intf s = some f) (hf : decodeButton f = .none) :
    runMove (.mon a) s = .next (s.polled f a) := by
  rw [runMove_monIdle_read h ha]
  exact congrArg Host.Outcome.next (monFinish_idle_quiet (s := s.polled f a) h.idle hf)

theorem runMove_monIdle_detects {s : State} {a : Answer} {f : Byte} (h : PollEnabled s)
    (ha : answeredByte a .intf s = some f) (hf : decodeButton f ≠ .none) :
    runMove (.mon a) s = .next (s.detected f a) := by
  rw [runMove_monIdle_read h ha]
  exact congrArg Host.Outcome.next (monFinish_idle_detects (s := s.polled f a) h.idle hf)

/-- Settles O47: the poll finds nothing or detects, by the three outcomes of `decodeButton`. -/
theorem monitorPollDetects : Obligations.MonitorPollDetects := by
  intro a f s hm he hq hl hv ha polled
  have enabled : PollEnabled s := ⟨hm, he, hq, hl, hv⟩
  have detects {e : Event} (hf : decodeButton f = e) (hne : e ≠ .none) :
      runMove (.mon a) s = .next { polled with evt := e, dbt := 500#16, mon := .mDebounce } := by
    subst hf
    exact runMove_monIdle_detects enabled ha hne
  exact ⟨fun h6 h7 => runMove_monIdle_quiet enabled ha (decodeButton_eq_none h6 h7),
    fun h6 => detects (decodeButton_eq_sw1 h6) (by decide),
    fun h6 h7 => detects (decodeButton_eq_sw2 h6 h7) (by decide)⟩

/-! ### A call of the monitor answered err (R234, R256) -/

theorem runMove_mon_read_err {s : State} {r : Reg} (hq : s.seq ≠ .sHalt)
    (hi : monRequest s = some (readRequest r s)) (hm : monMayCall s = true) (hr : r.readable = true) :
    runMove (.mon .err) s = .next (State.readErr r { s with turn := .monitor, ans := .err }) :=
  (monStep_call .err hq hi hm).trans (agentCall_read_err .monitor monFinish (monMayCall_handle hm) hr)

/-- R253, R256: DeviceNotFoundError is the sequencer's alone. -/
theorem callError_monitor (s : State) (a : Answer) :
    State.callError { s with turn := .monitor, ans := a } = .transportError := by
  simp [State.callError]

/-- Settles O46: both reads fail into the same fatal error, each with the address of its register. -/
theorem monitorCallErrorsHalt : Obligations.MonitorCallErrorsHalt := by
  intro s hq hl hv halted
  have halts (r : Reg) (hr : r.readable = true) (hi : monRequest s = some (readRequest r s)) :
      ∃ t, runMove (.mon .err) s = .next t ∧ halted r.addr t := by
    refine ⟨_, runMove_mon_read_err hq hi (monMayCall_of_free hl hv) hr, callError_monitor s .err, ?_⟩
    and_intros <;> rfl
  exact ⟨fun hm he => halts .intf rfl (monRequest_idle hm he), fun hm => halts .gpio rfl (monRequest_clear hm)⟩

/-! ### The ticks and the debounce (R142, R225, R226, R232) -/

/-- Settles O58: the two cases of a tick. -/
theorem ticksCountDown : Obligations.TicksCountDown := by
  intro s
  rcases State.tick_cases s with ⟨hq, e⟩ | ⟨hq, e⟩
  case inl => exact ⟨fun _ => congrArg Host.Outcome.next e, fun hne => absurd hq hne⟩
  case inr =>
    refine ⟨fun h => absurd h hq, fun _ => ⟨_, congrArg Host.Outcome.next e, rfl, ?_, ?_⟩⟩
    exacts [tickDown_toNat s.dbt, tickDown_toNat s.ht]

/-- Settles O48: `n` ticks take `n` off DBT, and the exit is enabled when nothing is left. -/
theorem debounceLastsItsTicks : Obligations.DebounceLastsItsTicks := by
  intro n a s hm hq _
  obtain ⟨d, h, run, hd, _⟩ := runMoves_ticks n hq
  have waits (hn : n < s.dbt.toNat) : d ≠ 0#16 := by bv_omega
  have ends (hn : n = s.dbt.toNat) : d = 0#16 := by bv_omega
  exact ⟨{ s with dbt := d, ht := h }, run, hm, hd, rfl, rfl, rfl,
    fun hn => runMove_monDebounce_waits a hq hm (waits hn), fun hn => runMove_monDebounce_ends a hq hm (ends hn)⟩

/-! ### What a step of the monitor leaves unchanged (R233) -/

/-- A read, answered with any byte, stores at most in INTF. -/
theorem State.readOk_read_other (r : Reg) (v : Byte) (s : State) {b : Nat} (h : b ≠ 0x07) :
    Memory.read (s.readOk r v).mem b = Memory.read s.mem b := by
  unfold State.readOk State.readEffect
  split
  · exact Memory.read_write_other s.mem 0x07 b 0x00#8 h
  · rfl

/-- No byte of the expander but INTF differs, and no pin. -/
def ChangesOnlyIntf (s t : State) : Prop :=
  (∀ b : Nat, b ≠ 0x07 → Memory.read t.mem b = Memory.read s.mem b) ∧ t.pin = s.pin ∧ t.undriven = s.undriven

theorem changesOnlyIntf_of_same {s t : State} (hmem : t.mem = s.mem) (hpin : t.pin = s.pin)
    (hund : t.undriven = s.undriven) : ChangesOnlyIntf s t :=
  ⟨fun _ _ => by rw [hmem], hpin, hund⟩

theorem changesOnlyIntf_readOk (r : Reg) (v : Byte) (s : State) : ChangesOnlyIntf s (s.readOk r v) := by
  obtain ⟨hpin, hund, _⟩ := callKeeps_readOk r v s
  exact ⟨fun _ hb => s.readOk_read_other r v hb, hpin, hund⟩

theorem ChangesOnlyIntf.monFinish {s t : State} (h : ChangesOnlyIntf s t) : ChangesOnlyIntf s (monFinish t) := by
  rcases monFinish_cases t with e | ⟨_, _, _, e⟩ | ⟨_, e⟩ <;> rw [e] <;> exact h

theorem changesOnlyIntf_mon {a : Answer} {s t : State} (h : runMove (.mon a) s = .next t) : ChangesOnlyIntf s t := by
  rcases runMove_mon_cases h with
    rfl | ⟨_, rfl⟩ | ⟨_, _, rfl⟩ | ⟨_, rfl⟩ | ⟨_, _, _, r, _, ⟨_, rfl⟩ | ⟨v, _, rfl⟩⟩
  case inr.inr.inr.inr.inr => exact (changesOnlyIntf_readOk r v { s with turn := .monitor, ans := a }).monFinish
  all_goals exact changesOnlyIntf_of_same rfl rfl rfl

/-- The one call a step of the monitor can issue is a read. -/
theorem Issues.mon_read {a : Answer} {s : State} {c : Call} (h : Issues (.mon a) s c) : ∃ reg v, c = .rd reg v := by
  cases h
  exact ⟨_, _, rfl⟩

/-- Settles O52: the monitor's call is a read, and a read stores at most in INTF. -/
theorem monitorNeverWrites : Obligations.MonitorNeverWrites := by
  intro a s t h
  refine ⟨(mon_trace h).imp_right ?_, changesOnlyIntf_mon h⟩
  rintro ⟨c, issued, trace⟩
  obtain ⟨reg, v, rfl⟩ := issued.mon_read
  exact ⟨reg, v, trace⟩

/-! ### The latched event (R26, R235) -/

@[simp] theorem State.readOk_mon (r : Reg) (v : Byte) (s : State) : (s.readOk r v).mon = s.mon := by
  unfold State.readOk State.readEffect
  split <;> rfl

@[simp] theorem State.readOk_evt (r : Reg) (v : Byte) (s : State) : (s.readOk r v).evt = s.evt := by
  unfold State.readOk State.readEffect
  split <;> rfl

@[simp] theorem seqFinish_evt (s : State) : (seqFinish s).evt = s.evt := by
  rcases seqFinish_cases s with e | ⟨_, _, _, e⟩ | ⟨_, _, e⟩ | ⟨_, _, e⟩ | ⟨_, e⟩ <;> rw [e] <;> rfl

/-- Only a detection in M_IDLE writes EVT. -/
theorem monFinish_evt {s : State} (hm : s.mon ≠ .mIdle) : (monFinish s).evt = s.evt := by
  rcases monFinish_cases s with e | ⟨idle, _⟩ | ⟨_, e⟩
  · rw [e]
  · exact absurd idle hm
  · rw [e]

theorem evt_offer {w : Byte} {s t : State} (h : runMove (.offer w) s = .next t) : t.evt = s.evt := by
  rcases runMove_offer_cases w s with ⟨_, _, e⟩ | e | ⟨_, _, e⟩ | ⟨_, _, _, e⟩ | ⟨_, e⟩ | ⟨_, e⟩ <;>
    rw [e] at h <;> cases h <;> rfl

theorem evt_seq {a : Answer} {s t : State} (h : runMove (.seq a) s = .next t) : t.evt = s.evt := by
  rcases runMove_seq_cases h with
    rfl | ⟨_, rfl⟩ | ⟨_, rfl⟩ | ⟨_, _, rfl⟩ | ⟨_, _, rfl⟩ |
    ⟨_, _, _, r, _, _, ⟨_, rfl⟩ | ⟨v, _, rfl⟩⟩ | ⟨_, _, _, r, v, _, _, _, ⟨_, rfl⟩ | ⟨_, rfl⟩⟩
  exacts [rfl, rfl, rfl, rfl, seqFinish_evt _, rfl, (seqFinish_evt _).trans (State.readOk_evt r v _), rfl,
    seqFinish_evt _]

theorem evt_mon {a : Answer} {s t : State} (h : runMove (.mon a) s = .next t) (hm : s.mon ≠ .mIdle) :
    t.evt = s.evt := by
  rcases runMove_mon_cases h with
    rfl | ⟨_, rfl⟩ | ⟨_, _, rfl⟩ | ⟨_, rfl⟩ | ⟨_, _, _, r, _, ⟨_, rfl⟩ | ⟨v, _, rfl⟩⟩
  case inr.inr.inr.inr.inr =>
    exact (monFinish_evt (by rwa [State.readOk_mon])).trans (State.readOk_evt r v _)
  all_goals rfl

/-- Outside M_IDLE a move keeps EVT or is a reset. -/
theorem evt_runMove {m : Move} {s t : State} (h : runMove m s = .next t) (hm : s.mon ≠ .mIdle) :
    t.evt = s.evt ∨ t = s.ldcReset := by
  cases m with
  | offer w => exact .inl (evt_offer h)
  | seq a => exact .inl (evt_seq h)
  | mon a => exact .inl (evt_mon h hm)
  | tick =>
    cases h
    rcases State.tick_cases s with ⟨_, e⟩ | ⟨_, e⟩ <;> rw [e] <;> exact .inl rfl
  | consumer ready => cases h; exact .inl rfl
  | press b =>
    cases h
    obtain ⟨_, _, _, e, _⟩ := State.press_cases s b
    rw [e]
    exact .inl rfl
  | release b =>
    cases h
    obtain ⟨_, _, _, _, e, _⟩ := State.release_cases s b
    rw [e]
    exact .inl rfl
  | setFlag f => cases h; exact .inl rfl
  | reset => cases h; exact .inr rfl

/-- Settles O51: a step is one move, and an event is latched outside M_IDLE only. -/
theorem latchedEventSurvives : Obligations.LatchedEventSurvives := by
  intro s t latched h
  have notIdle : s.mon ≠ .mIdle := by
    intro idle
    rw [idle] at latched
    cases latched
  obtain ⟨m, rest, d, e⟩ := step_eq_runMove s
  rw [e] at h
  refine (evt_runMove h notIdle).imp_right ?_
  rintro rfl
  exact ⟨rfl, rfl, rfl⟩

/-! ### A whole round, from the poll to the delivery (R224 to R228) -/

/-- The debounce and its exit: after as many ticks as DBT holds the monitor is in M_CLEAR. -/
theorem debounce_run {n : Nat} {s : State} (a : Answer) (ms : List Move) (hq : s.seq ≠ .sHalt)
    (hm : s.mon = .mDebounce) (hn : s.dbt.toNat = n) :
    ∃ h, runMoves (List.replicate n .tick ++ .mon a :: ms) s =
      runMoves ms { s with dbt := 0#16, ht := h, mon := .mClear } := by
  obtain ⟨d, h, run, hd, _⟩ := runMoves_ticks n hq
  obtain rfl : d = 0#16 := by bv_omega
  exact ⟨h, (runMoves_append _ run).trans (runMoves_cons _ (runMove_monDebounce_ends a hq hm rfl))⟩

/-- The clearing read and the delivery to a ready consumer. -/
theorem dispatch_run {a : Answer} {g : Byte} {s : State} (b : Answer) (hq : s.seq ≠ .sHalt) (hm : s.mon = .mClear)
    (hl : s.lock = .free) (hv : s.handleV = true) (hc : s.evtReady = true) (ha : answeredByte a .gpio s = some g) :
    runMoves [.mon a, .mon b] s = .next { s with
      trace := s.trace ++ [.rd 0x09#8 (some g)], mem := Memory.write s.mem 0x07 0x00#8, rdata := g,
      turn := .monitor, ans := a, events := s.events ++ [s.evt], mon := .mIdle } :=
  (runMoves_cons _ (runMove_monClear_read hm hq hl hv ha)).trans
    (runMoves_cons [] (runMove_monDispatch_delivers b hq rfl hc))

/-- A whole round, in M_IDLE again at its end: one INTF read, one GPIO read, one event. -/
theorem monitor_round {a c : Answer} {f g : Byte} {s : State} (b : Answer) (h : PollEnabled s)
    (hc : s.evtReady = true) (hf : answeredByte a .intf s = some f) (hfound : decodeButton f ≠ .none)
    (hg : answeredByte c .gpio s = some g) :
    ∃ ht, runMoves (.mon a :: (List.replicate 500 .tick ++ [.mon b, .mon c, .mon b])) s = .next { s with
      trace := s.trace ++ [.rd 0x07#8 (some f), .rd 0x09#8 (some g)], mem := Memory.write s.mem 0x07 0x00#8, rdata := g,
      turn := .monitor, ans := c, evt := decodeButton f, dbt := 0#16, ht := ht,
      events := s.events ++ [decodeButton f], mon := .mIdle } := by
  have poll := runMove_monIdle_detects h hf hfound
  obtain ⟨ht, debounced⟩ := debounce_run (n := 500) (s := s.detected f a) b [.mon c, .mon b] h.live rfl rfl
  have answered : answeredByte c .gpio { s.detected f a with dbt := 0#16, ht := ht, mon := .mClear } = some g :=
    (answeredByte_congr c .gpio rfl rfl rfl).trans hg
  have reads : s.trace ++ [.rd 0x07#8 (some f)] ++ [.rd 0x09#8 (some g)] =
      s.trace ++ [.rd 0x07#8 (some f), .rd 0x09#8 (some g)] := List.append_assoc _ _ _
  refine ⟨ht, (runMoves_cons _ poll).trans (debounced.trans ?_)⟩
  rw [← reads]
  exact dispatch_run b h.live rfl h.free h.handle hc answered

/-- Settles O53: a round with the reference peripheral's answers; INTF is then 0x00, so the next poll is quiet. -/
theorem onePressGivesOneEvent : Obligations.OnePressGivesOneEvent := by
  intro b s h hready hm he hc hf
  obtain ⟨hv, hl⟩ := h.open_and_free_of_ready hready
  have hq : s.seq ≠ .sHalt := by rw [hready]; decide
  obtain ⟨ht, run⟩ := monitor_round (a := .reference) (c := .reference) b ⟨hm, he, hq, hl, hv⟩ hc rfl hf rfl
  have cleared : (s.setReg .intf 0x00#8).reg .intf = 0x00#8 := s.reg_setReg_same .intf 0x00#8 h.mem.wf
  have nothing : decodeButton ((s.setReg .intf 0x00#8).reg .intf) = .none := by
    rw [cleared]
    rfl
  exact ⟨_, _, _, run, rfl, rfl, cleared, rfl, hready, rfl,
    runMove_monIdle_quiet ⟨rfl, he, hq, hl, hv⟩ rfl nothing, rfl, rfl⟩

end Sys2Proof.Machine

/-! ## Fatal errors, the halt and the flags (60_exceptions.md) -/

namespace Sys2Proof.Machine

/-! ### Fatal-error entry (R262) -/

/-- Settles O43: each field of `State.raise` and each port, by its definition. -/
theorem fatalErrorEntryWrites : Obligations.FatalErrorEntryWrites := by
  refine ⟨?entry, fun info s => ⟨rfl, rfl, rfl, rfl, rfl⟩⟩
  case entry =>
    intro e info s t
    and_intros <;> intros <;> rfl

/-! ### The halt (R266, R267) -/

/-- R127: a halted sequencer accepts no word. -/
theorem runMove_offer_halted {s : State} (w : Byte) (hq : s.seq = .sHalt) : runMove (.offer w) s = .next s := by
  rcases runMove_offer_cases w s with ⟨hx, _⟩ | hold | ⟨hx, _⟩ | ⟨hx, _⟩ | ⟨hx, _⟩ | ⟨hx, _⟩
  case inr.inl => exact hold
  all_goals cases hq.symm.trans hx

theorem runMove_seq_halted {s : State} (a : Answer) (hq : s.seq = .sHalt) : runMove (.seq a) s = .next s := by
  rw [runMove, seqStep, hq]

theorem runMove_mon_halted {s : State} (a : Answer) (hq : s.seq = .sHalt) : runMove (.mon a) s = .next s :=
  if_pos hq

/-- Settles O44: the host, both agents and the ticks do nothing; the environment's moves change the outside alone. -/
theorem haltIsFinal : Obligations.HaltIsFinal := by
  intro m s hq hm
  cases m with
  | offer w => exact ⟨s, runMove_offer_halted w hq, rfl, hq⟩
  | seq a => exact ⟨s, runMove_seq_halted a hq, rfl, hq⟩
  | mon a => exact ⟨s, runMove_mon_halted a hq, rfl, hq⟩
  | tick => exact ⟨s, (ticksCountDown s).1 hq, rfl, hq⟩
  | consumer ready => exact ⟨_, rfl, rfl, hq⟩
  | press b =>
    obtain ⟨_, _, _, e, _⟩ := s.press_cases b
    exact ⟨_, congrArg Host.Outcome.next e, rfl, hq⟩
  | release b =>
    obtain ⟨_, _, _, _, e, _⟩ := s.release_cases b
    exact ⟨_, congrArg Host.Outcome.next e, rfl, hq⟩
  | setFlag f => exact ⟨_, rfl, rfl, hq⟩
  | reset => exact absurd rfl hm

/-! ### How a flag of INTF can fall (R44, R260, R263) -/

@[simp] theorem seqFinish_mem (s : State) : (seqFinish s).mem = s.mem := by
  rcases seqFinish_cases s with e | ⟨_, _, _, e⟩ | ⟨_, _, e⟩ | ⟨_, _, e⟩ | ⟨_, e⟩ <;> rw [e] <;> rfl

@[simp] theorem monFinish_mem (s : State) : (monFinish s).mem = s.mem := by
  rcases monFinish_cases s with e | ⟨_, _, _, e⟩ | ⟨_, e⟩ <;> rw [e]

/-- Every flag that is set in `s` is set in `t`. -/
def FlagsKept (s t : State) : Prop := ∀ i, i < 8 → getBit (s.reg .intf) i = true → getBit (t.reg .intf) i = true

/-- The call that leads to `t` is a GPIO read answered with a byte, and no flag is set. -/
def ClearedByRead (s t : State) : Prop :=
  (∃ v, t.trace = s.trace ++ [.rd 0x09#8 (some v)]) ∧ t.reg .intf = 0x00#8

theorem flagsKept_of_mem_eq {s t : State} (h : t.mem = s.mem) : FlagsKept s t := by
  intro i _ hset
  rwa [State.reg_congr .intf h]

/-- A store in another register than INTF. -/
theorem flagsKept_of_mem_setReg {s t : State} {r : Reg} {v : Byte} (hr : r ≠ .intf)
    (h : t.mem = (s.setReg r v).mem) : FlagsKept s t := by
  intro i _ hset
  rwa [State.reg_congr .intf h, s.reg_setReg_other r .intf v hr.symm]

/-- R98: SetFlag adds flags. -/
theorem flagsKept_setFlag {s : State} (m : Byte) (h : Memory.wf s.mem) : FlagsKept s (s.setFlag m) := by
  intro i _ hset
  rw [State.setFlag, s.reg_setReg_same .intf _ h, getBit, BitVec.getLsbD_or]
  exact Bool.or_eq_true_iff.mpr (.inl hset)

/-- R96, R97: an event on a pin adds that pin's flag or none. -/
theorem flagsKept_movePin {s : State} (h : Memory.wf s.mem) {i : Nat} (level driven flag : Bool) (hi : i < 8) :
    FlagsKept s (s.movePin i level driven flag) := by
  intro q hq hset
  rw [State.movePin_intf_bit h level driven flag hi hq, hset]
  simp

/-- A read answered with a byte: a read of GPIO clears all flags, any other keeps them. -/
theorem flags_readOk {s : State} (h : Memory.wf s.mem) (r : Reg) (v : Byte) :
    FlagsKept s (s.readOk r v) ∨ ClearedByRead s (s.readOk r v) := by
  by_cases hr : r = .gpio
  · subst hr
    exact .inr ⟨⟨v, rfl⟩, s.reg_setReg_same .intf 0x00#8 h⟩
  · have untouched : (s.readOk r v).mem = s.mem := by simp [State.readOk, State.readEffect, hr]
    exact .inl (flagsKept_of_mem_eq untouched)

/-- What the agent does after an answered read touches neither the flags nor the trace. -/
theorem flags_of_readOk {s t : State} {r : Reg} {v : Byte} (h : Memory.wf s.mem) (hmem : t.mem = (s.readOk r v).mem)
    (htrace : t.trace = (s.readOk r v).trace) : FlagsKept s t ∨ ClearedByRead s t := by
  unfold FlagsKept ClearedByRead
  rw [State.reg_congr .intf hmem, htrace]
  exact flags_readOk h r v

theorem flagsKept_offer {w : Byte} {s t : State} (h : runMove (.offer w) s = .next t) : FlagsKept s t := by
  refine flagsKept_of_mem_eq ?_
  rcases runMove_offer_cases w s with ⟨_, _, e⟩ | e | ⟨_, _, e⟩ | ⟨_, _, _, e⟩ | ⟨_, e⟩ | ⟨_, e⟩ <;>
    rw [e] at h <;> cases h <;> rfl

/-- A step of the sequencer writes other registers than INTF, answered ok or err (log 10). -/
theorem flags_seq {a : Answer} {s t : State} (hwf : Memory.wf s.mem) (h : runMove (.seq a) s = .next t) :
    FlagsKept s t ∨ ClearedByRead s t := by
  rcases runMove_seq_cases h with
    rfl | ⟨_, rfl⟩ | ⟨_, rfl⟩ | ⟨_, _, rfl⟩ | ⟨_, _, rfl⟩ |
    ⟨_, _, _, r, _, _, ⟨_, rfl⟩ | ⟨v, _, rfl⟩⟩ | ⟨_, _, _, r, v, hr, _, _, ⟨_, rfl⟩ | ⟨_, rfl⟩⟩
  · exact .inl (flagsKept_of_mem_eq rfl)
  · exact .inl (flagsKept_of_mem_eq rfl)
  · exact .inl (flagsKept_of_mem_eq rfl)
  · exact .inl (flagsKept_of_mem_eq rfl)
  · exact .inl (flagsKept_of_mem_eq (seqFinish_mem _))
  · exact .inl (flagsKept_of_mem_eq rfl)
  · exact flags_of_readOk (s := { s with turn := .sequencer, ans := a }) hwf (seqFinish_mem _) (seqFinish_trace _)
  · exact .inl (flagsKept_of_mem_setReg ((Reg.writable_iff r).mp hr).1 rfl)
  · exact .inl (flagsKept_of_mem_setReg ((Reg.writable_iff r).mp hr).1 (seqFinish_mem _))

theorem flags_mon {a : Answer} {s t : State} (hwf : Memory.wf s.mem) (h : runMove (.mon a) s = .next t) :
    FlagsKept s t ∨ ClearedByRead s t := by
  rcases runMove_mon_cases h with
    rfl | ⟨_, rfl⟩ | ⟨_, _, rfl⟩ | ⟨_, rfl⟩ | ⟨_, _, _, r, _, ⟨_, rfl⟩ | ⟨v, _, rfl⟩⟩
  case inr.inr.inr.inr.inr =>
    exact flags_of_readOk (s := { s with turn := .monitor, ans := a }) hwf (monFinish_mem _) (monFinish_trace _)
  all_goals exact .inl (flagsKept_of_mem_eq rfl)

/-- A move keeps every flag, or is an answered GPIO read. -/
theorem flags_runMove {m : Move} {s t : State} (hwf : Memory.wf s.mem) (h : runMove m s = .next t) :
    FlagsKept s t ∨ ClearedByRead s t := by
  cases m with
  | offer w => exact .inl (flagsKept_offer h)
  | seq a => exact flags_seq hwf h
  | mon a => exact flags_mon hwf h
  | tick =>
    cases h
    rcases State.tick_cases s with ⟨_, e⟩ | ⟨_, e⟩ <;> rw [e] <;> exact .inl (flagsKept_of_mem_eq rfl)
  | consumer ready => cases h; exact .inl (flagsKept_of_mem_eq rfl)
  | press b => cases h; exact .inl (flagsKept_movePin hwf _ _ _ b.pin_lt)
  | release b =>
    cases h
    rw [State.release_eq_releasePin]
    exact .inl (flagsKept_movePin hwf _ _ _ b.pin_lt)
  | setFlag f => cases h; exact .inl (flagsKept_setFlag f hwf)
  | reset => cases h; exact .inl (flagsKept_of_mem_eq rfl)

/-- Settles O57: a step is one move, on a state with the same memory and trace, and a flag has fallen. -/
theorem flagsFallOnlyByGpioReads : Obligations.FlagsFallOnlyByGpioReads := by
  intro s t i hs h hi hset hfallen
  obtain ⟨m, rest, d, e⟩ := step_eq_runMove s
  rw [e] at h
  rcases flags_runMove (s := { s with inputs := rest, draws := d }) hs.mem.wf h with kept | cleared
  · have still : getBit (t.reg .intf) i = true := kept i hi hset
    cases hfallen.symm.trans still
  · exact cleared

end Sys2Proof.Machine

/-! ## The reset and the end of a run (70_reset_and_hazards.md) -/

namespace Sys2Proof.Machine

/-! ### The reset move (R290, R292) -/

@[simp] theorem State.ldcReset_levels (s : State) : s.ldcReset.levels = s.levels :=
  State.levels_congr s.ldcReset_mem s.ldcReset_pin s.ldcReset_undriven

/-- Settles O13: the registers and the observation after the move are those of `State.reset`, the expander is the old
one. -/
theorem resetMoveKeepsTheExpander : Obligations.ResetMoveKeepsTheExpander := by
  intro s
  have byte (a : Nat) : Memory.read s.ldcReset.mem a = Memory.read s.mem a := by rw [s.ldcReset_mem]
  exact ⟨s.ldcReset, rfl, s.ldcReset_seq, s.ldcReset_mon, s.ldcReset_monEn, s.ldcReset_lock, s.ldcReset_handleV,
    s.ldcReset_handleBus, s.ldcReset_cmdr, s.ldcReset_tmp, s.ldcReset_rsp, s.ldcReset_evt, s.ldcReset_err,
    s.ldcReset_errInfo, s.ldcReset_dbt, s.ldcReset_ht, s.ldcReset_trace, s.ldcReset_responses, s.ldcReset_events,
    byte, s.ldcReset_pin, s.ldcReset_undriven, s.ldcReset_levels⟩

/-! ### What the moves do to SEQ, MON and the observation (R10, R266) -/

/-- `t` has SEQ, MON, the trace, the responses and the events as `s` has them. -/
structure Unnoticed (s t : State) : Prop where
  seq : t.seq = s.seq
  mon : t.mon = s.mon
  trace : t.trace = s.trace
  responses : t.responses = s.responses
  events : t.events = s.events

theorem Unnoticed.refl (s : State) : Unnoticed s s := ⟨rfl, rfl, rfl, rfl, rfl⟩

/-- After the host's last command an agent moves, or the outside does and the LDC's course does not notice. -/
theorem agent_or_unnoticed {m : Move} {s t : State} (hm : monitorActivity m = true) (h : runMove m s = .next t) :
    (∃ a, m = .seq a) ∨ (∃ a, m = .mon a) ∨ Unnoticed s t := by
  cases m with
  | seq a => exact .inl ⟨a, rfl⟩
  | mon a => exact .inr (.inl ⟨a, rfl⟩)
  | tick =>
    cases h
    rcases s.tick_cases with ⟨_, e⟩ | ⟨_, e⟩ <;> rw [e] <;> exact .inr (.inr ⟨rfl, rfl, rfl, rfl, rfl⟩)
  | press b =>
    cases h
    obtain ⟨_, _, _, e, _⟩ := s.press_cases b
    rw [e]
    exact .inr (.inr ⟨rfl, rfl, rfl, rfl, rfl⟩)
  | release b =>
    cases h
    obtain ⟨_, _, _, _, e, _⟩ := s.release_cases b
    rw [e]
    exact .inr (.inr ⟨rfl, rfl, rfl, rfl, rfl⟩)
  | consumer | setFlag => cases h; exact .inr (.inr ⟨rfl, rfl, rfl, rfl, rfl⟩)
  | offer | reset => cases hm

@[simp] theorem State.readOk_responses (r : Reg) (v : Byte) (s : State) :
    (s.readOk r v).responses = s.responses := by
  unfold State.readOk State.readEffect
  split <;> rfl

@[simp] theorem monFinish_responses (s : State) : (monFinish s).responses = s.responses := by
  rcases monFinish_cases s with e | ⟨_, _, _, e⟩ | ⟨_, e⟩ <;> rw [e]

/-- The monitor never responds, and moves SEQ only to halt it (R234). -/
theorem mon_keeps_responses {a : Answer} {s t : State} (h : runMove (.mon a) s = .next t) :
    (t.seq = s.seq ∨ t.seq = .sHalt) ∧ t.responses = s.responses := by
  rcases runMove_mon_cases h with
    rfl | ⟨_, rfl⟩ | ⟨_, _, rfl⟩ | ⟨_, rfl⟩ | ⟨_, _, _, r, _, ⟨_, rfl⟩ | ⟨v, _, rfl⟩⟩
  case inr.inr.inr.inr.inl => exact ⟨.inr rfl, rfl⟩
  case inr.inr.inr.inr.inr => simp
  all_goals exact ⟨.inl rfl, rfl⟩

/-- R266: a run without a reset does not leave S_HALT. -/
theorem runMoves_halted {ms : List Move} {s t : State} (hreset : Move.reset ∉ ms) (h : runMoves ms s = .next t)
    (hq : s.seq = .sHalt) : t.seq = .sHalt := by
  induction ms generalizing s with
  | nil => cases h; exact hq
  | cons m ms ih =>
    obtain ⟨hm, hms⟩ := not_or.mp (mt List.mem_cons.mpr hreset)
    obtain ⟨u, hu, hrest⟩ := runMoves_of_cons h
    obtain ⟨u', hu', _, still⟩ := haltIsFinal m s hq (Ne.symm hm)
    cases hu.symm.trans hu'
    exact ih hms hrest still

/-! ### Every accepted command responds once (R313) -/

/-- Waiting for a response is a matter of SEQ alone: nothing waits in S_RESET, S_READY and S_HALT (R24, R32). -/
theorem commandsInProgress_eq (s : State) :
    commandsInProgress s = if s.seq = .sReset ∨ s.seq = .sReady ∨ s.seq = .sHalt then 0 else 1 := by
  unfold commandsInProgress State.initialising State.busy
  cases s.seq <;> decide

/-- From S_OPEN to S_HOLD_OFF the command in progress is INIT. -/
theorem commandsInProgress_initialising {s : State} (hfirst : 1 ≤ s.seq.code.toNat) (hlast : s.seq.code.toNat ≤ 13) :
    commandsInProgress s = 1 := by
  simp [commandsInProgress, State.initialising, hfirst, hlast]

/-- From `s` to `t`, where the words `ws` are accepted, each of them and the command in progress in `s` has responded once
or is the one in progress in `t`. -/
def Accounted (ws : List Byte) (s t : State) : Prop :=
  ∃ rs, t.responses = s.responses ++ rs ∧ rs.length + commandsInProgress t = ws.length + commandsInProgress s

theorem accounted_of_same {s t : State} (hq : t.seq = s.seq) (hr : t.responses = s.responses) : Accounted [] s t :=
  ⟨[], by rw [hr, List.append_nil], by rw [commandsInProgress_eq t, hq, ← commandsInProgress_eq s]⟩

theorem Accounted.trans {ws vs : List Byte} {s t u : State} (h : Accounted ws s t) (k : Accounted vs t u) :
    Accounted (ws ++ vs) s u := by
  obtain ⟨rs, hr, hn⟩ := h
  obtain ⟨qs, hq, hk⟩ := k
  refine ⟨rs ++ qs, by rw [hq, hr, List.append_assoc], ?_⟩
  rw [List.length_append, List.length_append]
  omega

/-- The end of a transaction responds where the command ends and not before (R24, R180 to R202). -/
theorem accounted_seqFinish (s : State) : Accounted [] s (seqFinish s) := by
  rcases seqFinish_cases s with e | ⟨n, adv, _, e⟩ | ⟨hq, _, e⟩ | ⟨hq, v, e⟩ | ⟨hq, e⟩ <;> rw [e]
  · exact accounted_of_same rfl rfl
  · obtain ⟨hcode, hfirst, hlast⟩ := adv
    refine ⟨[], (List.append_nil _).symm, ?_⟩
    rw [commandsInProgress_initialising (s := s) hfirst (by omega),
      commandsInProgress_initialising (by simp only; omega) (by simpa only using hlast)]
  · exact ⟨[], (List.append_nil _).symm, by simp [commandsInProgress_eq, hq]⟩
  · exact ⟨[v], rfl, by simp [commandsInProgress_eq, hq]⟩
  · exact ⟨[0x00#8], rfl, by simp [commandsInProgress_eq, hq]⟩

theorem accounted_finished {s t : State} (hq : t.seq = s.seq) (hr : t.responses = s.responses) :
    Accounted [] s (seqFinish t) :=
  (accounted_of_same hq hr).trans (accounted_seqFinish t)

theorem accounted_seq {a : Answer} {s t : State} (h : runMove (.seq a) s = .next t) (hlive : t.seq ≠ .sHalt) :
    Accounted [] s t := by
  rcases runMove_seq_cases h with
    rfl | ⟨hq, rfl⟩ | ⟨hq, rfl⟩ | ⟨_, _, rfl⟩ | ⟨_, _, rfl⟩ |
    ⟨_, _, _, r, _, _, ⟨_, rfl⟩ | ⟨v, _, rfl⟩⟩ | ⟨_, _, _, r, v, _, _, _, ⟨_, rfl⟩ | ⟨_, rfl⟩⟩
  · exact accounted_of_same rfl rfl
  · exact ⟨[], (List.append_nil _).symm, by simp [commandsInProgress_eq, hq]⟩
  · exact ⟨[0x00#8], rfl, by simp [commandsInProgress_eq, hq]⟩
  · exact absurd rfl hlive
  · exact accounted_finished rfl rfl
  · exact absurd rfl hlive
  · exact accounted_finished (State.readOk_seq r v _) (State.readOk_responses r v _)
  · exact absurd rfl hlive
  · exact accounted_finished rfl rfl

theorem acceptingSeq_init {w : Byte} (h : opField w = 0b000#3) : acceptingSeq w = .sReset := by
  rw [acceptingSeq, decodeCommand_init h]

theorem acceptingSeq_command {w : Byte} (h : opField w ≠ 0b000#3) : acceptingSeq w = .sReady := by
  unfold acceptingSeq
  split
  case h_1 e => exact absurd e (decodeCommand_ne_init h _)
  all_goals rfl

theorem acceptedWord_accepting {w : Byte} {s : State} (h : s.seq = acceptingSeq w) : acceptedWord (.offer w) s = [w] :=
  if_pos h

theorem acceptedWord_other {w : Byte} {s : State} (h : s.seq ≠ acceptingSeq w) : acceptedWord (.offer w) s = [] :=
  if_neg h

theorem acceptedWord_afterHost {m : Move} (s : State) (hm : monitorActivity m = true) : acceptedWord m s = [] := by
  cases m with
  | offer | reset => cases hm
  | seq | mon | tick | consumer | press | release | setFlag => rfl

/-- A command accepted in S_READY halts, is in progress in S_EXEC1, or has responded (R24, R183, R202, R220). -/
theorem accounted_startCommand {i : Instr} {s : State} (w : Byte) (hs : s.seq = .sReady) (hi : i.format = .cmd8)
    (hinit : ∀ x, i ≠ .init x) (hlive : (startCommand i s).seq ≠ .sHalt) : Accounted [w] s (startCommand i s) := by
  have started : Accounted [w] s { s with seq := .sExec1 } :=
    ⟨[], (List.append_nil _).symm, by simp [commandsInProgress_eq, hs]⟩
  have led (x : Byte) (p : BitVec 4) (h : (s.checkLed x p).seq ≠ .sHalt) : Accounted [w] s (s.checkLed x p) := by
    cases hp : isLed p with
    | true => rwa [State.checkLed_of_isLed x s hp]
    | false => exact absurd (congrArg State.seq (State.checkLed_of_not_isLed x s hp)) h
  cases i with
  | init x => exact absurd rfl (hinit x)
  | setleds | pollbtn | clrint => exact started
  | setled | getled => exact led _ _ hlive
  | btnstate x p =>
    cases hp : isSw p with
    | true => rwa [startCommand_btnstate x s hp]
    | false => exact absurd (by simp [startCommand, hp]) hlive
  | monstart | monstop => exact ⟨[0x00#8], rfl, by simp [commandsInProgress_eq, hs, startCommand]⟩
  | busRd | busWr | busOpen => cases hi

/-- R127: an accepted word is in progress or has responded, an unaccepted one changes nothing. -/
theorem accounted_offer {w : Byte} {s t : State} (h : runMove (.offer w) s = .next t) (hlive : t.seq ≠ .sHalt) :
    Accounted (acceptedWord (.offer w) s) s t := by
  by_cases hop : opField w = 0b000#3
  case pos =>
    rw [runMove_offer_init s hop] at h
    have hacc := acceptingSeq_init hop
    by_cases hq : s.seq = .sReset
    · rw [exec_init_reset _ hq] at h
      cases h
      rw [acceptedWord_accepting (hq.trans hacc.symm)]
      exact ⟨[], (List.append_nil _).symm, by simp [commandsInProgress_eq, hq]⟩
    · rw [exec_init_other _ hq] at h
      cases h
      rw [acceptedWord_other (hacc ▸ hq)]
      exact accounted_of_same rfl rfl
  case neg =>
    have hacc := acceptingSeq_command hop
    by_cases hq : s.seq = .sReady
    · rw [runMove_offer_ready hq hop] at h
      cases h
      rw [acceptedWord_accepting (hq.trans hacc.symm)]
      have started := accounted_startCommand w hq (decodeCommand_format w) (decodeCommand_ne_init hop) hlive
      exact started.trans (accounted_of_same rfl rfl)
    · rw [runMove_offer_notReady hq hop] at h
      cases h
      rw [acceptedWord_other (hacc ▸ hq)]
      exact accounted_of_same rfl rfl

theorem accounted_runMove {m : Move} {s t : State} (hreset : m ≠ .reset) (h : runMove m s = .next t)
    (hlive : t.seq ≠ .sHalt) : Accounted (acceptedWord m s) s t := by
  have afterHost (hm : monitorActivity m = true) : Accounted (acceptedWord m s) s t := by
    rw [acceptedWord_afterHost s hm]
    rcases agent_or_unnoticed hm h with ⟨a, rfl⟩ | ⟨a, rfl⟩ | same
    · exact accounted_seq h hlive
    · obtain ⟨hq, hr⟩ := mon_keeps_responses h
      exact accounted_of_same (hq.resolve_right hlive) hr
    · exact accounted_of_same same.seq same.responses
  cases m with
  | offer w => exact accounted_offer h hlive
  | reset => exact absurd rfl hreset
  | seq | mon | tick | consumer | press | release | setFlag => exact afterHost rfl

theorem acceptedIn_cons {m : Move} {s t : State} (ms : List Move) (h : runMove m s = .next t) :
    acceptedIn (m :: ms) s = acceptedWord m s ++ acceptedIn ms t := by
  rw [acceptedIn, h]

theorem accounted_runMoves {ms : List Move} {s t : State} (hreset : Move.reset ∉ ms) (h : runMoves ms s = .next t)
    (hlive : t.seq ≠ .sHalt) : Accounted (acceptedIn ms s) s t := by
  induction ms generalizing s with
  | nil => cases h; exact accounted_of_same rfl rfl
  | cons m ms ih =>
    obtain ⟨hm, hms⟩ := not_or.mp (mt List.mem_cons.mpr hreset)
    obtain ⟨u, hu, hrest⟩ := runMoves_of_cons h
    have live : u.seq ≠ .sHalt := fun hq => hlive (runMoves_halted hms hrest hq)
    rw [acceptedIn_cons ms hu]
    exact (accounted_runMove (Ne.symm hm) hu live).trans (ih hms hrest)

end Sys2Proof.Machine

namespace Sys2Proof

open Machine

/-! ### A run that is over (R313) -/

theorem RunOver.ready_or_halted {claim : State → Prop} {cmds : List Byte} {ms : List Move} {s t : State}
    (h : RunOver claim cmds ms s t) : t.seq = .sReady ∨ t.seq = .sHalt :=
  h.ended.imp CommandsDone.ready And.left

theorem runMove_seq_rests {s : State} (a : Answer) (hq : s.seq = .sReady ∨ s.seq = .sHalt) :
    runMove (.seq a) s = .next s :=
  hq.elim (runMove_seq_ready a) (runMove_seq_halted a)

theorem runMove_mon_rests {s : State} (a : Answer) (hm : s.mon = .mOff ∨ s.seq = .sHalt) :
    runMove (.mon a) s = .next s := by
  by_cases hq : s.seq = .sHalt
  · exact runMove_mon_halted a hq
  · exact runMove_monOff a hq (hm.resolve_right hq)

/-- A good end is not the halt: its commands are done (R313, R52 item 1). -/
theorem GoodEnd.commandsDone {claim : State → Prop} {cmds : List Byte} {ms : List Move} {s t : State} (hs : Legal s)
    (h : GoodEnd claim cmds ms s t) : CommandsDone claim cmds ms s t := by
  obtain ⟨ended, noError⟩ := h
  obtain ⟨legal, -⟩ := kept_runMoves hs ended.run
  exact ended.ended.resolve_right fun ⟨halted, _⟩ => legal.ldc.err_iff_halt.mpr halted noError

/-- The responses of commands that are done come after those that were there, one for each. -/
theorem CommandsDone.responses {claim : State → Prop} {cmds : List Byte} {ms : List Move} {s t : State}
    (hreset : Move.reset ∉ ms) (hrun : runMoves ms s = .next t) (h : CommandsDone claim cmds ms s t) :
    ∃ rs, t.responses = s.responses ++ rs ∧ rs.length = cmds.length := by
  obtain ⟨rs, hrs, -⟩ := accounted_runMoves hreset hrun (by rw [h.ready]; decide)
  have count := h.responded
  rw [hrs, List.length_append] at count
  exact ⟨rs, hrs, Nat.add_left_cancel count⟩

/-- What is left of a run's end after more moves without the host: ready still, or halted by the monitor, with the same
responses; with the monitor off the LDC has done nothing at all. -/
structure StaysOver (t u : State) : Prop where
  seq : u.seq = t.seq ∨ u.seq = .sHalt
  responses : u.responses = t.responses
  monitorOff : t.mon = .mOff → u.seq = t.seq ∧ u.trace = t.trace ∧ u.events = t.events ∧ u.mon = .mOff

theorem staysOver_of_unnoticed {t u : State} (h : Unnoticed t u) : StaysOver t u :=
  ⟨.inl h.seq, h.responses, fun hm => ⟨h.seq, h.trace, h.events, h.mon.trans hm⟩⟩

theorem StaysOver.trans {t u v : State} (h : StaysOver t u) (k : StaysOver u v) : StaysOver t v where
  seq := k.seq.elim (fun e => h.seq.imp e.trans e.trans) .inr
  responses := k.responses.trans h.responses
  monitorOff hm := by
    obtain ⟨hq, htrace, hevents, hoff⟩ := h.monitorOff hm
    obtain ⟨kq, ktrace, kevents, koff⟩ := k.monitorOff hoff
    exact ⟨kq.trans hq, ktrace.trans htrace, kevents.trans hevents, koff⟩

theorem staysOver_mon {a : Answer} {t u : State} (h : runMove (.mon a) t = .next u) : StaysOver t u := by
  obtain ⟨hq, hr⟩ := mon_keeps_responses h
  refine ⟨hq, hr, fun hm => ?_⟩
  rw [runMove_mon_rests a (.inl hm)] at h
  cases h
  exact ⟨rfl, rfl, rfl, hm⟩

theorem staysOver_runMove {m : Move} {t u : State} (hq : t.seq = .sReady ∨ t.seq = .sHalt)
    (hm : monitorActivity m = true) (h : runMove m t = .next u) : StaysOver t u := by
  rcases agent_or_unnoticed hm h with ⟨a, rfl⟩ | ⟨a, rfl⟩ | same
  · rw [runMove_seq_rests a hq] at h
    cases h
    exact staysOver_of_unnoticed (.refl _)
  · exact staysOver_mon h
  · exact staysOver_of_unnoticed same

theorem staysOver_runMoves {ms : List Move} {t u : State} (hq : t.seq = .sReady ∨ t.seq = .sHalt)
    (hms : ∀ m ∈ ms, monitorActivity m = true) (h : runMoves ms t = .next u) : StaysOver t u := by
  induction ms generalizing t with
  | nil => cases h; exact staysOver_of_unnoticed (.refl _)
  | cons m ms ih =>
    obtain ⟨v, hv, hrest⟩ := runMoves_of_cons h
    have one := staysOver_runMove hq (hms m (by simp)) hv
    have resting : v.seq = .sReady ∨ v.seq = .sHalt := one.seq.elim (fun e => e ▸ hq) .inr
    exact one.trans (ih resting (fun n hn => hms n (by simp [hn])) hrest)

/-- Settles O60: the count is an induction over the run; at its end the sequencer rests, and what the moves without the
host leave is an induction over them. -/
theorem finishedRunsStayFinished : Obligations.FinishedRunsStayFinished := by
  refine ⟨fun ms s t _ hreset hrun hlive => accounted_runMoves hreset hrun hlive, ?_⟩
  intro claim cmds ms s t hs ended
  have resting := ended.ready_or_halted
  refine ⟨fun a => runMove_seq_rests a resting, fun hoff a => runMove_mon_rests a hoff, ?good, ?further⟩
  case good =>
    intro good
    have done := good.commandsDone hs
    exact ⟨done.ready, done.free, done.accepted, done.responses ended.noReset ended.run⟩
  case further =>
    intro further u hfurther hrun
    obtain ⟨hq, hr, hoff⟩ := staysOver_runMoves resting hfurther hrun
    exact ⟨hq, hr, hoff⟩

end Sys2Proof
